-- ==== Sys2Proof/Word.lean ====
section
/-! DEFINITION. The byte, the only data width of the block (spec/00_scope.md R7, spec/20_memory.md R34). -/

namespace Sys2Proof

/-- A byte: an unsigned value in 0..255, bit 0 the least significant (R7). -/
abbrev Byte := BitVec 8

end Sys2Proof
end

