-- ==== Sys2Proof/Config.lean ====
section
/-! DEFINITION. What an implementation fixes: the one free parameter of the block
(spec/00_scope.md R5, spec/92_eei_decisions.md D1). -/

namespace Sys2Proof

/-- `PMAX`, the maximum payload length in bytes: left OPEN by the spec (R5, D1; DESIGN CHOICE, log entry 1), so it has
no body here and no proof can see its value. Only `State.reset` uses it: every statement about a state is about
the `pmax` that state holds. -/
opaque Config.pmax : Nat

end Sys2Proof
end

