-- ==== Sys2Proof/Machine/Flags.lean ====
section
/-! DEFINITION. The only status the block has (spec/10_state.md R16): the outcome of an operation, its kinds, their
codes and their priority (spec/60_exceptions.md R170, R172). There are no condition codes. -/

namespace Sys2Proof.Machine

/-- The six error kinds (R170); only `checksumMismatch` records anything. -/
inductive ErrorKind where
  /-- The input is longer than fixed storage (ENCODE: above `PMAX`; DECODE: above `FMAX`). -/
  | capacityExceeded
  /-- DECODE: no byte, or the first byte is not `FLAG`. -/
  | missingStartDelimiter
  /-- DECODE: no `FLAG` after the start delimiter. -/
  | unterminatedFrame
  /-- UNSTUFF: a final escape marker without its operand. -/
  | truncatedEscape
  /-- DECODE: no checksum byte after unstuffing. -/
  | emptyBody
  /-- DECODE: the recomputed checksum (`expected`) differs from the received one (`actual`, R126). -/
  | checksumMismatch (expected actual : Byte)
  deriving DecidableEq, Repr

/-- The outcome of one operation: `Ok` with its byte sequence, or exactly one error kind and no bytes
(R8, R16, R170, R176). -/
inductive Result where
  | ok (bytes : List Byte)
  | error (kind : ErrorKind)
  deriving DecidableEq, Repr

/-- What an internal unit hands over at the end of a stand-alone operation: CHECKSUM one byte (R80), STUFF and
UNSTUFF a byte sequence (R90, R95), UNSTUFF possibly `TruncatedEscape`. -/
inductive UnitResult where
  | byte (b : Byte)
  | bytes (bs : List Byte)
  | error (kind : ErrorKind)
  deriving DecidableEq, Repr

/-- The numeric code of an error kind (R170's code column, D6). -/
def ErrorKind.code : ErrorKind → Nat
  | .capacityExceeded => 1
  | .missingStartDelimiter => 2
  | .unterminatedFrame => 3
  | .truncatedEscape => 4
  | .emptyBody => 5
  | .checksumMismatch _ _ => 6

/-- The numeric code of an outcome: 0 for `Ok` (R170). A lower error code has the higher priority (R172). -/
def Result.code : Result → Nat
  | .ok _ => 0
  | .error k => k.code

/-- The result register `expected`: meaningful only for `ChecksumMismatch` (R16). -/
def Result.expected : Result → Option Byte
  | .error (.checksumMismatch e _) => some e
  | _ => none

/-- The result register `actual`: meaningful only for `ChecksumMismatch` (R16). -/
def Result.actual : Result → Option Byte
  | .error (.checksumMismatch _ a) => some a
  | _ => none

end Sys2Proof.Machine
end

