-- ==== Sys2Proof/Machine/Operands.lean ====
section
/-! DEFINITION. The functions on bytes and byte sequences that every operation is made of: the five constants,
the arithmetic of spec/40_checksum.md R82, the transmit and receive byte classes (R53, R54), and the five
operations as functions (R80, R90, R95, R110, R120). No state here. -/

namespace Sys2Proof.Machine

/-- `FLAG`, the frame delimiter (R6). -/
abbrev FLAG : Byte := 0x7E#8
/-- `ESC`, the escape marker (R6). -/
abbrev ESC : Byte := 0x7D#8
/-- `MASK`, XORed into a byte when it is escaped and again when it is unescaped (R6). -/
abbrev MASK : Byte := 0x20#8
/-- `XON`, a reserved control byte (R6; which of the two is called XON is a label only). -/
abbrev XON : Byte := 0x11#8
/-- `XOFF`, a reserved control byte (R6). -/
abbrev XOFF : Byte := 0x13#8

/-- `FMAX`, the maximum frame length and the capacity of every working buffer (R5, R41, D2). -/
def fmax (pmax : Nat) : Nat := 2 * pmax + 4

/-- `not8`, the bitwise complement within eight bits (R7, R82 (b)). -/
def not8 (b : Byte) : Byte := b ^^^ 0xFF#8

/-- Membership in `RESERVED` (R6). -/
def isReserved (d : Byte) : Bool := d == FLAG || d == ESC || d == XON || d == XOFF

/-! ## The Checksum unit -/

/-- The accumulator after absorbing `s` from the value `acc` (R80, R140 `absorb`): addition mod 256, the carry
discarded (R82 (a)). -/
def absorbAll (acc : Byte) : List Byte → Byte
  | [] => acc
  | b :: rest => absorbAll (acc + b) rest

/-- CHECKSUM (R80): the one's complement of the byte sum (conflict C1). -/
def checksum (s : List Byte) : Byte := not8 (absorbAll 0x00#8 s)

/-- `sum(s)`, the unbounded arithmetic sum (R7). -/
def byteSum : List Byte → Nat
  | [] => 0
  | b :: rest => b.toNat + byteSum rest

/-! ## The Stuffer -/

/-- The bytes the Stuffer emits for one input byte (R53, R141 `emit`). -/
def emit (d : Byte) : List Byte := if isReserved d then [ESC, d ^^^ MASK] else [d]

/-- STUFF (R90). -/
def stuff : List Byte → List Byte
  | [] => []
  | d :: rest => emit d ++ stuff rest

/-- The number of reserved bytes of `s` (the `r` of R52 and R91). -/
def reservedCount : List Byte → Nat
  | [] => 0
  | d :: rest => (if isReserved d then 1 else 0) + reservedCount rest

/-! ## The Unstuffer -/

/-- One `take` of the Unstuffer (R95, R142): the next pending-escape flag and the bytes emitted, none or one. -/
def take (esc : Bool) (b : Byte) : Bool × List Byte :=
  if esc then (false, [b ^^^ MASK]) else if b == ESC then (true, []) else (false, [b])

/-- `take` over a sequence: the last flag and all the bytes emitted (R142). -/
def takeAll (esc : Bool) : List Byte → Bool × List Byte
  | [] => (esc, [])
  | b :: rest => ((takeAll (take esc b).1 rest).1, (take esc b).2 ++ (takeAll (take esc b).1 rest).2)

/-- `finish` of the Unstuffer (R142): it fails when an escape is pending. -/
def unstuffFinish (esc : Bool) (out : List Byte) : Result :=
  if esc then .error .truncatedEscape else .ok out

/-- UNSTUFF (R95). -/
def unstuff (s : List Byte) : Result := unstuffFinish (takeAll false s).1 (takeAll false s).2

/-- The number of escape pairs the scan forms, from the flag `esc` (the `m` of R97). -/
def pairCount (esc : Bool) : List Byte → Nat
  | [] => 0
  | b :: rest => (if esc then 1 else 0) + pairCount (take esc b).1 rest

/-- The length of the run of `ESC` bytes at the end of `s` (the `k` of R96). -/
def trailingEscRun (s : List Byte) : Nat := (s.reverse.takeWhile (· == ESC)).length

/-! ## The frame, ENCODE and DECODE -/

/-- The frame of a payload by its four fields START, DATA, CKSUM, STOP (R50). -/
def frameOf (payload : List Byte) : List Byte :=
  [FLAG] ++ stuff payload ++ stuff [checksum payload] ++ [FLAG]

/-- ENCODE (R110): capacity, then checksum, one buffer, stuffing, delimiters. -/
def encodeFrame (pmax : Nat) (payload : List Byte) : Result :=
  if pmax < payload.length then .error .capacityExceeded
  else .ok ([FLAG] ++ stuff (payload ++ [checksum payload]) ++ [FLAG])

/-- The body up to the first `FLAG` and the bytes after that `FLAG`; `none` where there is no `FLAG`
(R120 step 2, R122). -/
def splitBody : List Byte → Option (List Byte × List Byte)
  | [] => none
  | b :: rest =>
    if b == FLAG then some ([], rest)
    else match splitBody rest with
      | none => none
      | some (body, after) => some (b :: body, after)

/-- Steps 4 to 6 of DECODE on the unstuffed body (R120, R56, R126). -/
def verdict (u : List Byte) : Result :=
  match u.getLast? with
  | none => .error .emptyBody
  | some actual =>
    if checksum u.dropLast == actual then .ok u.dropLast
    else .error (.checksumMismatch (checksum u.dropLast) actual)

/-- Steps 3 to 6 of DECODE on the stuffed body (R120). -/
def decodeBody (body : List Byte) : Result :=
  match unstuff body with
  | .error k => .error k
  | .ok u => verdict u

/-- DECODE (R120): capacity, start delimiter, terminating delimiter, then the body. -/
def decodeFrame (pmax : Nat) (inp : List Byte) : Result :=
  if fmax pmax < inp.length then .error .capacityExceeded
  else match inp with
    | [] => .error .missingStartDelimiter
    | b :: rest =>
      if b == FLAG then
        match splitBody rest with
        | none => .error .unterminatedFrame
        | some (body, _) => decodeBody body
      else .error .missingStartDelimiter

/-- One-pass checksum validation (R157): `acc` over all the unstuffed bytes, checksum byte included, and the last
of them. -/
def onePassVerdict (u : List Byte) : Result :=
  match u.getLast? with
  | none => .error .emptyBody
  | some last =>
    if absorbAll 0x00#8 u == 0xFF#8 then .ok u.dropLast
    else .error (.checksumMismatch (not8 (absorbAll 0x00#8 u - last)) last)

/-! ## Bounded buffers -/

/-- `BufRead` (R33): the byte at an index below the length, and nothing at any other. -/
def bufRead (buf : List Byte) (i : Nat) : Option Byte := buf[i]?

/-- `BufPush` (R33): append below the capacity; `none` at a full buffer. -/
def bufPush (cap : Nat) (buf : List Byte) (b : Byte) : Option (List Byte) :=
  if buf.length < cap then some (buf ++ [b]) else none

/-- `BufPush` of each byte in order. -/
def bufPushAll (cap : Nat) (buf : List Byte) : List Byte → Option (List Byte)
  | [] => some buf
  | b :: rest =>
    match bufPush cap buf b with
    | none => none
    | some buf' => bufPushAll cap buf' rest

end Sys2Proof.Machine
end

