-- ==== Sys2Proof/Syntax.lean ====
section
/-! DEFINITION. The instructions: one constructor for each of the 21 rows of spec/opcode_table.json, in the table's
order. For this block an "instruction" is an operation, the frame layout, a transmit-side byte class, a
receive-side symbol or an escape pair (spec/30_encoding.md). -/

namespace Sys2Proof

inductive Instr where
  /-- ENCODE: request selector 0, operand the raw payload (R110). -/
  | encode (payload : List Byte)
  /-- DECODE: request selector 1, operand the received byte sequence (R120). -/
  | decode (inp : List Byte)
  /-- CHECKSUM: internal unit (R80). -/
  | checksum (s : List Byte)
  /-- STUFF: internal unit (R90). -/
  | stuff (s : List Byte)
  /-- UNSTUFF: internal unit (R95). -/
  | unstuff (s : List Byte)
  /-- FRAME: START DATA CKSUM STOP of a payload (R50). -/
  | frame (payload : List Byte)
  /-- TX_ESC_FLAG: transmit byte 0x7E (R53). -/
  | txEscFlag
  /-- TX_ESC_ESC: transmit byte 0x7D (R53). -/
  | txEscEsc
  /-- TX_ESC_XON: transmit byte 0x11 (R53). -/
  | txEscXon
  /-- TX_ESC_XOFF: transmit byte 0x13 (R53). -/
  | txEscXoff
  /-- TX_LITERAL: any other transmit byte (R53). -/
  | txLiteral (d : Byte)
  /-- RX_START: 0x7E while the Decoder expects the start delimiter (R54). -/
  | rxStart
  /-- RX_STOP: 0x7E while the Decoder reads the body (R54). -/
  | rxStop
  /-- RX_ESC: 0x7D with no escape pending (R54). -/
  | rxEsc
  /-- RX_LITERAL: any other byte with no escape pending (R54). -/
  | rxLiteral (b : Byte)
  /-- RX_OPERAND: any byte with an escape pending (R54, R61). -/
  | rxOperand (v : Byte)
  /-- ESC_PAIR: 0x7D and an operand that is not one of the four canonical ones (R55, R57). -/
  | escPair (v : Byte)
  /-- ESC_PAIR_FLAG: 0x7D, 0x5E (R55). -/
  | escPairFlag
  /-- ESC_PAIR_ESC: 0x7D, 0x5D (R55). -/
  | escPairEsc
  /-- ESC_PAIR_XON: 0x7D, 0x31 (R55). -/
  | escPairXon
  /-- ESC_PAIR_XOFF: 0x7D, 0x33 (R55). -/
  | escPairXoff
  deriving DecidableEq, Repr

end Sys2Proof
end

