-- ==== Sys2Proof/WellFormed.lean ====
section
/-! DEFINITION. Which instructions the tables of spec/30_encoding.md and spec/opcode_table.json have: a generic row
gives way to the rows that take precedence over it. -/

namespace Sys2Proof

open Sys2Proof.Machine

/-- The four canonical escape operands (R53, R55). -/
def isCanonicalOperand (v : Byte) : Bool := v == 0x5E#8 || v == 0x5D#8 || v == 0x31#8 || v == 0x33#8

/-- TX_LITERAL is not for the four reserved bytes, RX_LITERAL not for 0x7D, ESC_PAIR not for the four canonical
operands: those have rows of their own. Every byte sequence is a legal operand (R22, R80, R90, R95), and every
byte a legal escape operand (R61). -/
def Instr.wf : Instr → Bool
  | .txLiteral d => !isReserved d
  | .rxLiteral b => b != ESC
  | .escPair v => !isCanonicalOperand v
  | .encode _ => true
  | .decode _ => true
  | .checksum _ => true
  | .stuff _ => true
  | .unstuff _ => true
  | .frame _ => true
  | .txEscFlag => true
  | .txEscEsc => true
  | .txEscXon => true
  | .txEscXoff => true
  | .rxStart => true
  | .rxStop => true
  | .rxEsc => true
  | .rxOperand _ => true
  | .escPairFlag => true
  | .escPairEsc => true
  | .escPairXon => true
  | .escPairXoff => true

end Sys2Proof
end

