-- ==== Sys2Proof/Decode.lean ====
section
/-! DEFINITION. The decoder, total on any bytes and rejecting by name, and the encoder. The meaning of a byte depends
on where it arrives (spec/30_encoding.md R54), so both work in a context. -/

namespace Sys2Proof

open Sys2Proof.Machine

/-- Where bytes are presented to the decoder: the column "where" of R54, the Stuffer's input (R53), the request
(R58), a whole wire frame (R50) and an escape pair (R55). -/
inductive Ctx where
  /-- A request `(op, inp)` (R22, R58), laid out as the selector bit in a byte of its own and then the operand (DESIGN
  CHOICE, log entry 17). -/
  | request
  /-- The input of the Stuffer (R53). -/
  | tx
  /-- The Decoder in `ExpectStart` (R54). -/
  | rxStart
  /-- The Decoder in `ReadingBody`, no escape pending, byte by byte (R54). -/
  | rxBody
  /-- The Decoder in `ReadingBody`, no escape pending, an escape pair taken as one symbol (R55, R57). -/
  | rxPairs
  /-- The Decoder in `ReadingBody`, an escape pending (R54, R63). -/
  | rxEscaped
  /-- The Unstuffer on its own, no escape pending, byte by byte (R54, D23). -/
  | unstuff
  /-- The Unstuffer on its own, no escape pending, an escape pair taken as one symbol (R57). -/
  | unstuffPairs
  /-- The Unstuffer on its own, an escape pending (R54). -/
  | unstuffOperand
  /-- An escape pair and nothing else (R55). -/
  | pair
  /-- A wire frame (R50). -/
  | frame
  deriving DecidableEq, Repr

/-- Why the decoder gives no instruction. -/
inductive DecodeError where
  /-- A selector byte that is neither 0 nor 1 (R58: two selector values exist; the byte: DESIGN CHOICE, log entry 17). -/
  | badSelector
  /-- No byte where one is needed. -/
  | noByte
  /-- `ExpectStart` and no byte, or a byte that is not `FLAG` (R54, R121). -/
  | missingStart
  /-- `ReadingBody` and no byte left (R121). -/
  | noStop
  /-- The two bytes are no escape pair (R55). -/
  | notAPair
  /-- The bytes are no wire frame, for the reason DECODE gives (R120). -/
  | notAFrame (kind : ErrorKind)
  deriving DecidableEq, Repr

/-- The class of a transmit-side byte (R53). -/
def txClass (d : Byte) : Instr :=
  if d == FLAG then .txEscFlag
  else if d == ESC then .txEscEsc
  else if d == XON then .txEscXon
  else if d == XOFF then .txEscXoff
  else .txLiteral d

/-- The escape pair `[0x7D, v]` (R55): the canonical rows take precedence. -/
def pairClass (v : Byte) : Instr :=
  if v == 0x5E#8 then .escPairFlag
  else if v == 0x5D#8 then .escPairEsc
  else if v == 0x31#8 then .escPairXon
  else if v == 0x33#8 then .escPairXoff
  else .escPair v

/-- A received byte with no escape pending, outside the delimiter search (R54). -/
def rxClass (b : Byte) : Instr := if b == ESC then .rxEsc else .rxLiteral b

/-- A received byte in `ReadingBody` with no escape pending: the delimiter is looked for first (R54, R63). -/
def rxBodyClass (b : Byte) : Instr := if b == FLAG then .rxStop else rxClass b

/-- A received byte in `ReadingBody` with an escape pending: still the delimiter first (R63, R155). -/
def rxEscapedClass (b : Byte) : Instr := if b == FLAG then .rxStop else .rxOperand b

/-- A received byte where an escape pair is taken whole if its operand `next` is there. -/
def pairFirst (b : Byte) (next : Option Byte) (otherwise : Instr) : Instr × Nat :=
  match next with
  | some v => if b == ESC then (pairClass v, 2) else (otherwise, 1)
  | none => (otherwise, 1)

/-- The byte after the first, unless it is a delimiter, which is never an escape operand inside DECODE (R63). -/
def operandInBody (rest : List Byte) : Option Byte :=
  match rest with
  | [] => none
  | v :: _ => if v == FLAG then none else some v

/-- The selector of a request (R58, D5): 0 is ENCODE, 1 is DECODE. That it stands in a byte of its own, before the operand,
is the model's (DESIGN CHOICE, log entry 17): the spec gives one bit and a pair `(op, inp)`. -/
def selectorByte (op : BitVec 1) : Byte := op.zeroExtend 8

/-- The instruction at the front of the bytes and the bytes after it. The byte layout of a request is the model's (DESIGN
CHOICE, log entry 17). -/
def decode (c : Ctx) (bs : List Byte) : Except DecodeError (Instr × List Byte) :=
  match c with
  | .request =>
    match bs with
    | [] => .error .noByte
    | sel :: inp =>
      if sel == 0x00#8 then .ok (.encode inp, [])
      else if sel == 0x01#8 then .ok (.decode inp, [])
      else .error .badSelector
  | .tx =>
    match bs with
    | [] => .error .noByte
    | d :: rest => .ok (txClass d, rest)
  | .rxStart =>
    match bs with
    | [] => .error .missingStart
    | b :: rest => if b == FLAG then .ok (.rxStart, rest) else .error .missingStart
  | .rxBody =>
    match bs with
    | [] => .error .noStop
    | b :: rest => .ok (rxBodyClass b, rest)
  | .rxPairs =>
    match bs with
    | [] => .error .noStop
    | b :: rest =>
      .ok ((pairFirst b (operandInBody rest) (rxBodyClass b)).1,
        bs.drop (pairFirst b (operandInBody rest) (rxBodyClass b)).2)
  | .rxEscaped =>
    match bs with
    | [] => .error .noStop
    | b :: rest => .ok (rxEscapedClass b, rest)
  | .unstuff =>
    match bs with
    | [] => .error .noByte
    | b :: rest => .ok (rxClass b, rest)
  | .unstuffPairs =>
    match bs with
    | [] => .error .noByte
    | b :: rest =>
      .ok ((pairFirst b rest.head? (rxClass b)).1, bs.drop (pairFirst b rest.head? (rxClass b)).2)
  | .unstuffOperand =>
    match bs with
    | [] => .error .noByte
    | v :: rest => .ok (.rxOperand v, rest)
  | .pair =>
    match bs with
    | b :: v :: rest => if b == ESC then .ok (pairClass v, rest) else .error .notAPair
    | _ => .error .notAPair
  | .frame =>
    match bs with
    | [] => .error (.notAFrame .missingStartDelimiter)
    | b :: rest =>
      if b == FLAG then
        match splitBody rest with
        | none => .error (.notAFrame .unterminatedFrame)
        | some (body, after) =>
          match decodeBody body with
          | .ok payload => .ok (.frame payload, after)
          | .error k => .error (.notAFrame k)
      else .error (.notAFrame .missingStartDelimiter)

/-- The context an instruction is encoded in and its bytes there; none for the three internal units, which have no
selector value (R58). The byte layout of a request is the model's (DESIGN CHOICE, log entry 17). -/
def encode : Instr → Option (Ctx × List Byte)
  | .encode payload => some (.request, 0x00#8 :: payload)
  | .decode inp => some (.request, 0x01#8 :: inp)
  | .checksum _ => none
  | .stuff _ => none
  | .unstuff _ => none
  | .frame payload => some (.frame, frameOf payload)
  | .txEscFlag => some (.tx, [0x7E#8])
  | .txEscEsc => some (.tx, [0x7D#8])
  | .txEscXon => some (.tx, [0x11#8])
  | .txEscXoff => some (.tx, [0x13#8])
  | .txLiteral d => some (.tx, [d])
  | .rxStart => some (.rxStart, [0x7E#8])
  | .rxStop => some (.rxBody, [0x7E#8])
  | .rxEsc => some (.rxBody, [0x7D#8])
  | .rxLiteral b => some (.unstuff, [b])
  | .rxOperand v => some (.unstuffOperand, [v])
  | .escPair v => some (.pair, [0x7D#8, v])
  | .escPairFlag => some (.pair, [0x7D#8, 0x5E#8])
  | .escPairEsc => some (.pair, [0x7D#8, 0x5D#8])
  | .escPairXon => some (.pair, [0x7D#8, 0x31#8])
  | .escPairXoff => some (.pair, [0x7D#8, 0x33#8])

/-- The instruction of a decoded window, its remaining bytes left out. -/
def decoded (r : Except DecodeError (Instr × List Byte)) : Option Instr :=
  match r with
  | .ok (i, _) => some i
  | .error _ => none

/-- The context and the bytes of an opcode-table word of `nbits` bits (DESIGN CHOICE, log entry 9): a 16-bit word is an
escape pair, its first byte in bits 15..8 as the table numbers it; a word of one byte that is 0 or 1 is a request
selector with an empty operand; any other byte is a transmit-side byte. -/
def tableWindow (nbits w : Nat) : Option (Ctx × List Byte) :=
  if nbits == 16 then
    if w < 65536 then some (.pair, [BitVec.ofNat 8 (w / 256), BitVec.ofNat 8 w]) else none
  else if nbits ≤ 8 then
    if w < 2 then some (.request, [BitVec.ofNat 8 w])
    else if w < 256 then some (.tx, [BitVec.ofNat 8 w])
    else none
  else none

/-- The instruction the decoder reads from an opcode-table word. The bare byte 0x7E is also RX_START and RX_STOP in
their contexts and 0x7D also RX_ESC (R54): a word without its context is read on the transmit side. -/
def decodeTableWord (nbits w : Nat) : Option Instr :=
  match tableWindow nbits w with
  | none => none
  | some (c, bs) => decoded (decode c bs)

end Sys2Proof
end

