-- ==== Sys2Proof/Machine/State.lean ====
section
/-! DEFINITION. The state of one instance of SHDLC-CORE: the working state of spec/10_state.md with its reset values
(R20), the outcome, and the model's own fields for what the spec speaks of without naming a register. -/

namespace Sys2Proof.Machine

/-- The Decoder's state variable (R14). -/
inductive DState where
  /-- No byte consumed; the next must be `FLAG`. -/
  | expectStart
  /-- The start delimiter was consumed; body bytes are being consumed. -/
  | readingBody
  /-- The terminating delimiter was consumed; the checks run (D10). -/
  | expectEnd
  /-- Success. -/
  | done
  /-- An error kind was recorded; absorbing. -/
  | failed
  deriving DecidableEq, Repr

/-- The Encoder's phase (R21): T_START, T_DATA, T_CKSUM, T_STOP, T_DONE. -/
inductive TState where
  | start
  | data
  | cksum
  | stop
  | done
  deriving DecidableEq, Repr

/-- Which unit has an operation in progress (DESIGN CHOICE, log entry 4): busy and idle are R177's and R190's words. -/
inductive Activity where
  /-- Idle, ready to accept a request (R20). -/
  | idle
  /-- ENCODE byte by byte, the framer (R150). -/
  | encoding
  /-- DECODE byte by byte, the deframer, which unstuffs while it reads the body (R155). -/
  | decoding
  /-- DECODE by the state machine that reads the stuffed body first and unstuffs it in `ExpectEnd` (R121, D10). -/
  | stagedDecoding
  /-- The Checksum unit on its own, byte by byte (R140). -/
  | checksumming
  /-- The Stuffer on its own, byte by byte (R141). -/
  | stuffing
  /-- The Unstuffer on its own, byte by byte (R142). -/
  | unstuffing
  deriving DecidableEq, Repr

/-- The internal units (R58). -/
inductive Leaf where
  | checksum
  | stuff
  | unstuff
  deriving DecidableEq, Repr

/-- What the caller asks for (R22, R58, R59; DESIGN CHOICE, log entry 7). -/
inductive Command where
  /-- A request `(op, inp)`, taken as one atomic operation (R34). -/
  | request (op : BitVec 1) (inp : List Byte)
  /-- The same request taken by the byte-serial datapath (R150, R155); `pairs`: an escape pair is one symbol. -/
  | serial (op : BitVec 1) (pairs : Bool) (inp : List Byte)
  /-- A DECODE request taken by the state machine of R121. -/
  | staged (inp : List Byte)
  /-- An internal unit on its own, as one operation (R58). -/
  | unit (u : Leaf) (s : List Byte)
  /-- An internal unit on its own, byte by byte (R140, R141, R142). -/
  | unitSerial (u : Leaf) (pairs : Bool) (s : List Byte)
  /-- The frame layout of a payload (R50). -/
  | frame (payload : List Byte)
  deriving DecidableEq, Repr

/-- The three bounded buffers, the only memory (R18, R32): each is the list of its bytes below its length, since
cells at or above the length are never read (U5; DESIGN CHOICE, log entry 3). -/
structure Memory where
  /-- `IN`: the caller's input once it has passed the capacity check. -/
  input : List Byte := []
  /-- `W`: for ENCODE the payload and its checksum byte so far; for DECODE the stuffed body (R121) or the unstuffed
  body (R155) so far, and in the end the unstuffed body (R18). -/
  work : List Byte := []
  /-- `OUT`: the result, the frame for ENCODE, the payload for DECODE (R18). -/
  output : List Byte := []
  deriving DecidableEq, Repr

/-- Every buffer holds at most `cap` bytes (R32, R41). -/
def Memory.wf (cap : Nat) (m : Memory) : Bool :=
  decide (m.input.length ≤ cap) && decide (m.work.length ≤ cap) && decide (m.output.length ≤ cap)

/-- The whole state of one instance. -/
structure State where
  /-- `PMAX`, the instance's build-time parameter; no step writes it (R5, R17). -/
  pmax : Nat
  /-- The running checksum accumulator (R12): the payload bytes summed so far. DECODE sums them in `ExpectEnd`, where it
  compares the checksum (DESIGN CHOICE, log entry 19). -/
  acc : Byte
  /-- The pending-escape flag (R13). -/
  esc : Bool
  /-- The Decoder's state variable (R14). -/
  dstate : DState
  /-- The Encoder's phase (R21). -/
  tstate : TState
  /-- The input cursor `i` (R15). -/
  cursor : Nat
  /-- The buffers `IN`, `W`, `OUT` (R18). -/
  mem : Memory
  /-- The outcome of the last operation; absent until one ends (R16, R20). -/
  outcome : Option Result
  /-- The model's own: the unit with an operation in progress (DESIGN CHOICE, log entry 4). -/
  active : Activity
  /-- The model's own: the operation in progress takes an escape pair as one symbol (DESIGN CHOICE, log entry 5). -/
  pairs : Bool
  /-- The model's own: the immutable operand of a stand-alone unit operation in progress (DESIGN CHOICE, log
  entry 6). -/
  operand : List Byte
  /-- The model's own: what a stand-alone unit has returned so far (DESIGN CHOICE, log entry 6). -/
  emitted : List Byte
  /-- The model's own: what an internal unit handed over at the end of its operation (DESIGN CHOICE, log entry 6). -/
  unitOut : Option UnitResult
  /-- The model's own: the requests the caller has still to issue, in order (DESIGN CHOICE, log entry 7). -/
  pending : List Command
  /-- The model's own: reset is asserted (DESIGN CHOICE, log entry 8). -/
  resetReq : Bool
  deriving DecidableEq, Repr

/-- No fault exists: no input leads to a fault or a stuck state (R175). -/
inductive Fault where
  deriving DecidableEq, Repr

/-- Why exec gives an instruction no next state. -/
inductive Refusal where
  /-- Raised by an arm of exec that has no meaning yet: none has been left so. Safe. -/
  | notModelled (mnemonic : String)
  /-- Raised by ENCODE, DECODE, CHECKSUM, STUFF, UNSTUFF and FRAME on an instance with an operation in progress
  (R190, R208, D21; U3 says `refuse`): the spec gives such a request no meaning. The step never raises it. Safe (DESIGN CHOICE,
  log entry 11). -/
  | busy
  deriving DecidableEq, Repr

/-- The machine right after reset (R20, R200): working state at R20's values, idle, no outcome. `pmax` is the
implementation's open parameter (DESIGN CHOICE, log entry 1); nothing is pending and reset is no longer asserted. -/
def State.reset : State where
  pmax := Config.pmax
  acc := 0x00#8
  esc := false
  dstate := .expectStart
  tstate := .start
  cursor := 0
  mem := { input := [], work := [], output := [] }
  outcome := none
  active := .idle
  pairs := false
  operand := []
  emitted := []
  unitOut := none
  pending := []
  resetReq := false

end Sys2Proof.Machine
end

