-- ==== Sys2Proof/Machine/Ops.lean ====
section
/-! DEFINITION. The named operations over the state: starting and ending an operation, recording an error (the
block's only exception, spec/60_exceptions.md), the leaf units' actions, and the rows of the framer and deframer
tables of spec/44_byte_serial_datapaths.md. -/

namespace Sys2Proof.Machine

/-! ## Starting and ending an operation -/

/-- The working state at R20's values and the instance idle; the outcome, what a unit handed over, the parameter
and the caller's side are as they were (R158, R177). -/
def State.toIdle (s : State) : State :=
  { s with
    acc := 0x00#8, esc := false, dstate := .expectStart, tstate := .start, cursor := 0,
    mem := { input := [], work := [], output := [] },
    active := .idle, pairs := false, operand := [], emitted := [] }

/-- The start of an operation: the working state at R20's values, and no outcome yet: the one before it is gone
(DESIGN CHOICE, log entry 12). -/
def State.begin (s : State) : State := { s.toIdle with outcome := none, unitOut := none }

/-- The end of an operation: its outcome, nothing else retained (R10, R176, R211). -/
def State.deliver (r : Result) (s : State) : State := { s.begin with outcome := some r }

/-- The end of a stand-alone operation of an internal unit: what it hands over, nothing else retained. -/
def State.handOver (u : UnitResult) (s : State) : State := { s.begin with unitOut := some u }

/-- Reset (R200): the working state at R20's values, idle, no outcome pending; an operation in progress is
abandoned. -/
def State.applyReset (s : State) : State := { s.begin with resetReq := false }

/-- TAKING THE EXCEPTION: an error kind is recorded as the outcome and the Decoder is in its absorbing `Failed`
(R14, R121, R174). Nothing is saved and no control is transferred. -/
def State.fail (k : ErrorKind) (s : State) : State := { s with dstate := .failed, outcome := some (.error k) }

/-- THE RETURN from it, as from success (R177, R158): the instance is idle in the initial working state, the outcome
stays delivered. For DECODE this is a step of its own, and until it the instance counts as busy (DESIGN CHOICE, log
entry 4). -/
def State.retire (s : State) : State := s.toIdle

/-- The result of an internal unit as what it hands over. -/
def Result.toUnit : Result → UnitResult
  | .ok bs => .bytes bs
  | .error k => .error k

/-- A whole operation on an idle instance; a busy one is refused (R190, U3; DESIGN CHOICE, log entry 11). -/
def State.atomic (s t : State) : Host.Outcome State Fault Refusal :=
  if s.active = .idle then .next t else .refused .busy

/-! ## The framer (R150) -/

/-- Append bytes to `OUT` and go on with `k`; a full buffer ends the operation with `CapacityExceeded` (R33, U12). -/
def State.pushOut (bs : List Byte) (k : State → State) (s : State) : State :=
  match bufPushAll (fmax s.pmax) s.mem.output bs with
  | some out => k { s with mem := { s.mem with output := out } }
  | none => s.deliver (.error .capacityExceeded)

/-- Append a data byte to `W` and what the Stuffer makes of it to `OUT`, and go on with `k`: `W` holds the "one buffer"
of payload and checksum byte (R18; DESIGN CHOICE, log entry 18), `OUT` the frame. A full buffer ends the operation. -/
def State.pushData (d : Byte) (k : State → State) (s : State) : State :=
  match bufPush (fmax s.pmax) s.mem.work d with
  | some w => ({ s with mem := { s.mem with work := w } } : State).pushOut (emit d) k
  | none => s.deliver (.error .capacityExceeded)

/-- `absorb` of the Checksum unit (R140). -/
def State.absorb (b : Byte) (s : State) : State := { s with acc := s.acc + b }

/-- The Checksum unit run over `bs`: `clear`, then `absorb` of each byte (R140, R12). -/
def State.sumOver (bs : List Byte) (s : State) : State := { s with acc := absorbAll 0x00#8 bs }

/-- The cursor moves past one consumed byte (R15). -/
def State.advance (s : State) : State := { s with cursor := s.cursor + 1 }

/-- The Stuffer on its own returns `emit(d)` (R141). -/
def State.emitAlone (d : Byte) (s : State) : State := { s with emitted := s.emitted ++ emit d }

/-- The Stuffer is given the byte `d`. In the framer's `T_DATA` it is a payload byte, in `T_CKSUM` the checksum byte
(R150); in a stand-alone run the cursor moves past it; elsewhere the unit's action stands alone
(R141; DESIGN CHOICE, log entry 10). -/
def State.txByte (d : Byte) (s : State) : State :=
  match s.active with
  | .encoding =>
    match s.tstate with
    | .data => s.pushData d (fun t => (t.absorb d).advance)
    | .cksum => s.pushData d (fun t => { t with tstate := .stop })
    | .start => s.emitAlone d
    | .stop => s.emitAlone d
    | .done => s.emitAlone d
  | .stuffing => (s.emitAlone d).advance
  | .idle => s.emitAlone d
  | .decoding => s.emitAlone d
  | .stagedDecoding => s.emitAlone d
  | .checksumming => s.emitAlone d
  | .unstuffing => s.emitAlone d

/-! ## The deframer (R155) -/

/-- One received byte in the deframer: the rows of R155 that consume a byte, in R155's order (the delimiter before
the pending escape). In `ExpectEnd`, `Done` and `Failed` no byte is read any more (R121, R124). -/
def State.deframe (b : Byte) (s : State) : State :=
  match s.dstate with
  | .expectStart =>
    if b == FLAG then { s.advance with dstate := .readingBody } else s.fail .missingStartDelimiter
  | .readingBody =>
    if b == FLAG then
      if s.esc then s.fail .truncatedEscape else { s.advance with dstate := .expectEnd }
    else
      match bufPushAll (fmax s.pmax) s.mem.work (take s.esc b).2 with
      | some w => { s.advance with esc := (take s.esc b).1, mem := { s.mem with work := w } }
      | none => s.fail .capacityExceeded
  | .expectEnd => s
  | .done => s
  | .failed => s

/-- Received bytes in the deframer, in order. -/
def State.deframeAll (bs : List Byte) (s : State) : State :=
  match bs with
  | [] => s
  | b :: rest => (s.deframe b).deframeAll rest

/-- One received byte in the state machine of R121: the rows that consume a byte. The stuffed body goes to `W` as it is,
so an escape marker and its operand are bytes like any other until `ExpectEnd`. -/
def State.collect (b : Byte) (s : State) : State :=
  match s.dstate with
  | .expectStart =>
    if b == FLAG then { s.advance with dstate := .readingBody } else s.fail .missingStartDelimiter
  | .readingBody =>
    if b == FLAG then { s.advance with dstate := .expectEnd }
    else
      match bufPush (fmax s.pmax) s.mem.work b with
      | some w => { s.advance with mem := { s.mem with work := w } }
      | none => s.fail .capacityExceeded
  | .expectEnd => s
  | .done => s
  | .failed => s

/-- Received bytes in the state machine of R121, in order. -/
def State.collectAll (bs : List Byte) (s : State) : State :=
  match bs with
  | [] => s
  | b :: rest => (s.collect b).collectAll rest

/-- The Unstuffer on its own takes the bytes and returns what it emits (R142). -/
def State.takeAlone (bs : List Byte) (s : State) : State :=
  { s with esc := (takeAll s.esc bs).1, emitted := s.emitted ++ (takeAll s.esc bs).2 }

/-- The receive side is given the bytes of one symbol: to the deframer, or to the state machine of R121, while DECODE is
in progress; to the Unstuffer in a stand-alone run, whose cursor moves past them; elsewhere the unit's action stands
alone (R54, R142; DESIGN CHOICE, log entry 10). -/
def State.rxBytes (bs : List Byte) (s : State) : State :=
  match s.active with
  | .decoding => s.deframeAll bs
  | .stagedDecoding => s.collectAll bs
  | .unstuffing => { s.takeAlone bs with cursor := s.cursor + bs.length }
  | .idle => s.takeAlone bs
  | .encoding => s.takeAlone bs
  | .checksumming => s.takeAlone bs
  | .stuffing => s.takeAlone bs

/-! ## The rows that consume no symbol -/

/-- The request rows of DECODE, the same for R121 and R155: the capacity check, then the initial working state with the
input in `IN`. -/
def State.beginDecode (a : Activity) (pairs : Bool) (inp : List Byte) (s : State) : State :=
  if fmax s.pmax < inp.length then
    ({ s.begin with active := a, pairs := pairs } : State).fail .capacityExceeded
  else { s.begin with active := a, pairs := pairs, mem := { input := inp, work := [], output := [] } }

/-- The request rows of R150 and R155: the capacity check, then the initial working state with the input in `IN`. -/
def State.beginSerial (op : BitVec 1) (pairs : Bool) (inp : List Byte) (s : State) : State :=
  if op == 0#1 then
    if s.pmax < inp.length then s.deliver (.error .capacityExceeded)
    else { s.begin with active := .encoding, mem := { input := inp, work := [], output := [] } }
  else s.beginDecode .decoding pairs inp

/-- The start of a stand-alone unit run: `clear` (R140, R142) and the operand held. -/
def State.beginUnit (u : Leaf) (pairs : Bool) (x : List Byte) (s : State) : State :=
  { s.begin with
    active := match u with
      | .checksum => .checksumming
      | .stuff => .stuffing
      | .unstuff => .unstuffing
    pairs := pairs
    operand := x }

/-- The framer rows that read no payload byte (R150): T_START, the exit from T_DATA, T_STOP and T_DONE. T_CKSUM's
byte goes through the decoder and never comes here (DESIGN CHOICE, log entry 14). -/
def State.framerRow (s : State) : State :=
  match s.tstate with
  | .start => s.pushOut [FLAG] (fun t => { t with tstate := .data })
  | .data => { s with tstate := .cksum }
  | .cksum => s
  | .stop => s.pushOut [FLAG] (fun t => { t with tstate := .done })
  | .done => s.deliver (.ok s.mem.output)

/-- Steps 4 to 6 of DECODE on the unstuffed body in `W` (R120): an empty body fails; else the Checksum unit runs over
the payload, all bytes but the last, and `acc` is read (`not8(acc)`) and compared with the last byte (R12, R140). That
`acc` is cleared and the payload absorbed here, not one byte at a time as `W` is filled (R157), is DESIGN CHOICE, log
entry 19. On success the payload is in `OUT` (R18; DESIGN CHOICE, log entry 18). -/
def State.settle (s : State) : State :=
  match s.mem.work.getLast? with
  | none => s.fail .emptyBody
  | some actual =>
    let payload := s.mem.work.dropLast
    let t := s.sumOver payload
    if not8 t.acc == actual then
      match bufPushAll (fmax t.pmax) t.mem.output payload with
      | some out => { t with dstate := .done, outcome := some (.ok payload), mem := { t.mem with output := out } }
      | none => t.fail .capacityExceeded
    else t.fail (.checksumMismatch (not8 t.acc) actual)

/-- The deframer rows that read no byte (R155): the checks of `ExpectEnd` (R120 steps 4 to 6), and the end of the
operation from `Done` and `Failed` (R177), where the outcome is written and the instance is still busy for this one step
(DESIGN CHOICE, log entry 4). `ExpectStart` and `ReadingBody` go through the decoder. -/
def State.deframerRow (s : State) : State :=
  match s.dstate with
  | .expectStart => s
  | .readingBody => s
  | .expectEnd => s.settle
  | .done => s.retire
  | .failed => s.retire

/-- The start of UNSTUFF, an operation of its own (R4), on the body that DECODE gives it as its operand: `esc` is cleared
and its result buffer `W` is empty (R95, R142). A buffer is emptied by the start of an operation only (R33); that this
start is one, so that `W` can hold the stuffed body and then the unstuffed body (R18), is the model's reading (DESIGN
CHOICE, log entry 18). -/
def State.startUnstuff (s : State) : State := { s with esc := false, mem := { s.mem with work := [] } }

/-- UNSTUFF of `body` as R142's actions: `take` of each byte, what it returns pushed to `W` (R33), then `finish`; and the
checks of `ExpectEnd` (R121), in the order written. -/
def State.unstuffBody (body : List Byte) (s : State) : State :=
  match bufPushAll (fmax s.pmax) s.mem.work (takeAll s.esc body).2 with
  | some w =>
    let t : State := { s with esc := (takeAll s.esc body).1, mem := { s.mem with work := w } }
    if t.esc then t.fail .truncatedEscape else t.settle
  | none => s.fail .capacityExceeded

/-- The rows of R121 that no symbol stands for: a body byte is collected; `ExpectEnd` gives the body to UNSTUFF and makes
the checks; and the end of the operation (R177), where the instance is still busy for this one step (DESIGN CHOICE, log
entry 4). -/
def State.stagedRow (s : State) : State :=
  match s.dstate with
  | .expectStart => s
  | .readingBody =>
    match bufRead s.mem.input s.cursor with
    | some b => s.collect b
    | none => s
  | .expectEnd => s.startUnstuff.unstuffBody s.mem.work
  | .done => s.retire
  | .failed => s.retire

/-- One step of the Checksum unit on its own: `absorb` the next byte, or at the end `read` (R140). -/
def State.checksumRow (s : State) : State :=
  match bufRead s.operand s.cursor with
  | some b => (s.absorb b).advance
  | none => s.handOver (.byte (not8 s.acc))

/-- The deframer's reaction to a byte the decoder rejects (R155): no start delimiter, or no byte left in the body.
The other names are never given for the bytes a step presents (`window_rejects` in Laws/Fetch.lean; DESIGN CHOICE,
log entry 14). -/
def State.reject (e : DecodeError) (s : State) : State :=
  match e with
  | .missingStart => s.fail .missingStartDelimiter
  | .noStop => s.fail .unterminatedFrame
  | .badSelector => s
  | .noByte => s
  | .notAPair => s
  | .notAFrame _ => s

end Sys2Proof.Machine
end

