-- ==== Sys2Proof/Machine/EscapePair.lean ====
section
/-! DEFINITION. The escape pairs (spec/30_encoding.md R55, R57): a marker and its operand received as one symbol, which
has the effect of its two bytes in order (R142, R155). -/

namespace Sys2Proof.Machine

/-- ESC_PAIR (R55): yields the operand xor 0x20. -/
def execEscPair (v : Byte) (s : State) : Host.Outcome State Fault Refusal := .next (s.rxBytes [0x7D#8, v])

/-- ESC_PAIR_FLAG (R55): yields 0x7E. -/
def execEscPairFlag (s : State) : Host.Outcome State Fault Refusal := .next (s.rxBytes [0x7D#8, 0x5E#8])

/-- ESC_PAIR_ESC (R55): yields 0x7D. -/
def execEscPairEsc (s : State) : Host.Outcome State Fault Refusal := .next (s.rxBytes [0x7D#8, 0x5D#8])

/-- ESC_PAIR_XON (R55): yields 0x11. -/
def execEscPairXon (s : State) : Host.Outcome State Fault Refusal := .next (s.rxBytes [0x7D#8, 0x31#8])

/-- ESC_PAIR_XOFF (R55): yields 0x13. -/
def execEscPairXoff (s : State) : Host.Outcome State Fault Refusal := .next (s.rxBytes [0x7D#8, 0x33#8])

end Sys2Proof.Machine
end

