-- ==== Sys2Proof/Machine/External.lean ====
section
/-! DEFINITION. The two external operations, ENCODE (spec/42_encoder.md R110) and DECODE (spec/43_decoder.md R120), each
one atomic event for the caller (R34). -/

namespace Sys2Proof.Machine

/-- ENCODE (R110). -/
def execEncode (payload : List Byte) (s : State) : Host.Outcome State Fault Refusal :=
  s.atomic (s.deliver (encodeFrame s.pmax payload))

/-- DECODE (R120). -/
def execDecode (inp : List Byte) (s : State) : Host.Outcome State Fault Refusal :=
  s.atomic (s.deliver (decodeFrame s.pmax inp))

end Sys2Proof.Machine
end

