-- ==== Sys2Proof/Machine/Receive.lean ====
section
/-! DEFINITION. The receive-side symbols (spec/30_encoding.md R54): one received byte, with the one meaning it has in
the Decoder's state and with or without an escape pending (R54, R65, R155). -/

namespace Sys2Proof.Machine

/-- RX_START (R54): the start delimiter. -/
def execRxStart (s : State) : Host.Outcome State Fault Refusal := .next (s.rxBytes [0x7E#8])

/-- RX_STOP (R54): the terminating delimiter, also where an escape is pending (R63). -/
def execRxStop (s : State) : Host.Outcome State Fault Refusal := .next (s.rxBytes [0x7E#8])

/-- RX_ESC (R54): opens an escape pair. -/
def execRxEsc (s : State) : Host.Outcome State Fault Refusal := .next (s.rxBytes [0x7D#8])

/-- RX_LITERAL (R54): the byte unchanged. -/
def execRxLiteral (b : Byte) (s : State) : Host.Outcome State Fault Refusal := .next (s.rxBytes [b])

/-- RX_OPERAND (R54, R61): the byte xor 0x20; the pair is closed. -/
def execRxOperand (v : Byte) (s : State) : Host.Outcome State Fault Refusal := .next (s.rxBytes [v])

end Sys2Proof.Machine
end

