-- ==== Sys2Proof/Machine/Transmit.lean ====
section
/-! DEFINITION. The transmit-side byte classes (spec/30_encoding.md R53): the Stuffer is given one data byte, a payload
byte or the checksum byte (R141, R150). -/

namespace Sys2Proof.Machine

/-- TX_ESC_FLAG (R53): emits 0x7D, 0x5E. -/
def execTxEscFlag (s : State) : Host.Outcome State Fault Refusal := .next (s.txByte 0x7E#8)

/-- TX_ESC_ESC (R53): emits 0x7D, 0x5D. -/
def execTxEscEsc (s : State) : Host.Outcome State Fault Refusal := .next (s.txByte 0x7D#8)

/-- TX_ESC_XON (R53): emits 0x7D, 0x31. -/
def execTxEscXon (s : State) : Host.Outcome State Fault Refusal := .next (s.txByte 0x11#8)

/-- TX_ESC_XOFF (R53): emits 0x7D, 0x33. -/
def execTxEscXoff (s : State) : Host.Outcome State Fault Refusal := .next (s.txByte 0x13#8)

/-- TX_LITERAL (R53): emits the byte itself. -/
def execTxLiteral (d : Byte) (s : State) : Host.Outcome State Fault Refusal := .next (s.txByte d)

end Sys2Proof.Machine
end

