-- ==== Sys2Proof/Machine/Units.lean ====
section
/-! DEFINITION. The internal units on their own, CHECKSUM, STUFF and UNSTUFF (R80, R90, R95), and the frame layout
FRAME (R50). They have no capacity limit of their own (spec/41_stuffing.md). -/

namespace Sys2Proof.Machine

/-- CHECKSUM (R80). -/
def execChecksum (x : List Byte) (s : State) : Host.Outcome State Fault Refusal :=
  s.atomic (s.handOver (.byte (checksum x)))

/-- STUFF (R90). -/
def execStuff (x : List Byte) (s : State) : Host.Outcome State Fault Refusal :=
  s.atomic (s.handOver (.bytes (stuff x)))

/-- UNSTUFF (R95). -/
def execUnstuff (x : List Byte) (s : State) : Host.Outcome State Fault Refusal :=
  s.atomic (s.handOver (unstuff x).toUnit)

/-- FRAME: the four fields of the frame of a payload (R50; DESIGN CHOICE, log entry 13: no capacity is checked). -/
def execFrame (payload : List Byte) (s : State) : Host.Outcome State Fault Refusal :=
  s.atomic (s.handOver (.bytes (frameOf payload)))

end Sys2Proof.Machine
end

