-- ==== Sys2Proof/Machine/Dispatch.lean ====
section
/-! DEFINITION. One arm per instruction, each a call of its meaning. -/

namespace Sys2Proof.Machine

def exec (i : Instr) (s : State) : Host.Outcome State Fault Refusal :=
  match i with
  | .encode payload => Sys2Proof.Machine.execEncode payload s
  | .decode inp => Sys2Proof.Machine.execDecode inp s
  | .checksum x => Sys2Proof.Machine.execChecksum x s
  | .stuff x => Sys2Proof.Machine.execStuff x s
  | .unstuff x => Sys2Proof.Machine.execUnstuff x s
  | .frame payload => Sys2Proof.Machine.execFrame payload s
  | .txEscFlag => Sys2Proof.Machine.execTxEscFlag s
  | .txEscEsc => Sys2Proof.Machine.execTxEscEsc s
  | .txEscXon => Sys2Proof.Machine.execTxEscXon s
  | .txEscXoff => Sys2Proof.Machine.execTxEscXoff s
  | .txLiteral d => Sys2Proof.Machine.execTxLiteral d s
  | .rxStart => Sys2Proof.Machine.execRxStart s
  | .rxStop => Sys2Proof.Machine.execRxStop s
  | .rxEsc => Sys2Proof.Machine.execRxEsc s
  | .rxLiteral b => Sys2Proof.Machine.execRxLiteral b s
  | .rxOperand v => Sys2Proof.Machine.execRxOperand v s
  | .escPair v => Sys2Proof.Machine.execEscPair v s
  | .escPairFlag => Sys2Proof.Machine.execEscPairFlag s
  | .escPairEsc => Sys2Proof.Machine.execEscPairEsc s
  | .escPairXon => Sys2Proof.Machine.execEscPairXon s
  | .escPairXoff => Sys2Proof.Machine.execEscPairXoff s

end Sys2Proof.Machine
end

