-- ==== Sys2Proof/Machine/Fetch.lean ====
section
/-! DEFINITION. What the machine does next: which bytes stand before the decoder and in which context, and the table
rows that consume no symbol. There is no program counter (spec/10_state.md R15): an idle instance takes the
caller's next request, a busy one the byte at its cursor. -/

namespace Sys2Proof.Machine

/-- What a step is to do. -/
inductive Fetch where
  /-- Idle and nothing requested (R20). -/
  | idle
  /-- Run the instruction at this state. -/
  | instr (i : Instr) (t : State)
  /-- A table row that consumes no symbol, or reset: the state after it. -/
  | row (t : State)
  deriving DecidableEq, Repr

/-- The bytes before the decoder and their context, where the state presents any. In the body the state machine of R121
looks for the delimiter only: the other symbols of R54 are the Unstuffer's, which runs in `ExpectEnd`. -/
def State.window (s : State) : Option (Ctx × List Byte) :=
  match s.active with
  | .idle =>
    match s.pending with
    | .request op inp :: _ => some (.request, selectorByte op :: inp)
    | _ => none
  | .encoding =>
    match s.tstate with
    | .data =>
      if s.cursor < s.mem.input.length then some (.tx, s.mem.input.drop s.cursor) else none
    | .cksum => some (.tx, [not8 s.acc])
    | _ => none
  | .decoding =>
    match s.dstate with
    | .expectStart => some (.rxStart, s.mem.input.drop s.cursor)
    | .readingBody =>
      some (if s.esc then .rxEscaped else if s.pairs then .rxPairs else .rxBody,
        s.mem.input.drop s.cursor)
    | _ => none
  | .stagedDecoding =>
    match s.dstate with
    | .expectStart => some (.rxStart, s.mem.input.drop s.cursor)
    | .readingBody =>
      match s.mem.input.drop s.cursor with
      | [] => some (.rxBody, [])
      | b :: rest => if b == FLAG then some (.rxBody, b :: rest) else none
    | _ => none
  | .stuffing =>
    if s.cursor < s.operand.length then some (.tx, s.operand.drop s.cursor) else none
  | .unstuffing =>
    if s.cursor < s.operand.length then
      some (if s.esc then .unstuffOperand else if s.pairs then .unstuffPairs else .unstuff,
        s.operand.drop s.cursor)
    else none
  | .checksumming => none

/-- The state an instruction runs at: a request leaves the caller's list; a byte is consumed by its instruction,
which moves the cursor. -/
def State.consume (s : State) : State :=
  match s.active with
  | .idle => { s with pending := s.pending.tail }
  | _ => s

/-- The instruction of a stand-alone unit operation (R58: an operation is selected by name). -/
def Leaf.instr (u : Leaf) (x : List Byte) : Instr :=
  match u with
  | .checksum => .checksum x
  | .stuff => .stuff x
  | .unstuff => .unstuff x

/-- What an idle instance does with the caller's next command when it is not an atomic request. -/
def State.idleRow (s : State) : Fetch :=
  match s.pending with
  | [] => .idle
  | .request _ _ :: _ => .idle
  | .serial op pairs inp :: rest => .row (({ s with pending := rest } : State).beginSerial op pairs inp)
  | .staged inp :: rest => .row (({ s with pending := rest } : State).beginDecode .stagedDecoding false inp)
  | .unit u x :: rest => .instr (u.instr x) { s with pending := rest }
  | .unitSerial u pairs x :: rest => .row (({ s with pending := rest } : State).beginUnit u pairs x)
  | .frame payload :: rest => .instr (.frame payload) { s with pending := rest }

/-- The row a state takes when it presents no bytes to the decoder. -/
def State.sequence (s : State) : Fetch :=
  match s.active with
  | .idle => s.idleRow
  | .encoding => .row s.framerRow
  | .decoding => .row s.deframerRow
  | .stagedDecoding => .row s.stagedRow
  | .checksumming => .row s.checksumRow
  | .stuffing => .row (s.handOver (.bytes s.emitted))
  | .unstuffing => .row (s.handOver (unstuffFinish s.esc s.emitted).toUnit)

/-- What a step does: reset first (R200), then the decoder's instruction or rejection, then a row. -/
def State.fetch (s : State) : Fetch :=
  if s.resetReq then .row s.applyReset
  else
    match s.window with
    | none => s.sequence
    | some (c, bs) =>
      match decode c bs with
      | .ok (i, _) => .instr i s.consume
      | .error e => .row (s.reject e)

/-- Place an opcode-table window where the step takes its next instruction: a request at the head of the caller's
list of an idle instance; a transmit byte as the input of a framer in T_DATA; an escape pair as the operand of the
Unstuffer on its own, pairs taken whole (DESIGN CHOICE, log entry 9). -/
def State.placeWindow (c : Ctx) (bs : List Byte) (s : State) : State :=
  match c with
  | .request =>
    { s with
      active := .idle, resetReq := false,
      pending := .request ((bs.headD 0x00#8).truncate 1) bs.tail :: s.pending }
  | .tx =>
    { s with
      active := .encoding, tstate := .data, resetReq := false, cursor := 0,
      mem := { s.mem with input := bs } }
  | .pair =>
    { s with
      active := .unstuffing, esc := false, pairs := true, resetReq := false, cursor := 0, operand := bs }
  | _ => s

end Sys2Proof.Machine
end

