-- ==== Sys2Proof/Machine/Step.lean ====
section
/-! DEFINITION. One step: one operation, one symbol, or one table row that consumes none (spec/70_reset_and_hazards.md
R210: a step is a unit of sequencing, not of time). -/

namespace Sys2Proof.Machine

/-- One step of the machine. -/
def step (s : State) : Host.Outcome State Fault Refusal :=
  match s.fetch with
  | .idle => .next s
  | .instr i t => exec i t
  | .row t => .next t

/-- The state with an opcode-table word where the step takes its next instruction (DESIGN CHOICE, log entry 9). -/
def State.withFetchWord (s : State) (nbits w : Nat) : State :=
  match tableWindow nbits w with
  | none => s
  | some (c, bs) => s.placeWindow c bs

end Sys2Proof.Machine
end

