-- ==== Sys2Proof/Safety.lean ====
section
/-! DEFINITION. What holds of a machine in good order: the buffers fit, an idle instance is in the initial working
state (spec/10_state.md R20, R177), and the working state of a byte-serial operation is what the bytes consumed so
far make it (spec/44_byte_serial_datapaths.md R146, R151, R156). -/

namespace Sys2Proof.Machine

/-- `j` is the index of the terminating delimiter: the first `FLAG` at an index of 1 or more (R122). -/
def isTerminator (inp : List Byte) (j : Nat) : Prop :=
  1 ≤ j ∧ inp[j]? = some FLAG ∧ ∀ k, 1 ≤ k → k < j → inp[k]? ≠ some FLAG

/-- The stuffed body `inp[1..j)` (R120 step 2). -/
def bodyAt (inp : List Byte) (j : Nat) : List Byte := (inp.take j).drop 1

/-- Every buffer is within its capacity `FMAX` (R32, R41). -/
def State.buffersFit (s : State) : Prop := s.mem.wf (fmax s.pmax) = true

/-- The working state is at R20's values. -/
def State.workingInitial (s : State) : Prop :=
  s.acc = 0x00#8 ∧ s.esc = false ∧ s.dstate = .expectStart ∧ s.tstate = .start ∧ s.cursor = 0 ∧
  s.mem = { input := [], work := [], output := [] } ∧ s.pairs = false ∧ s.operand = [] ∧ s.emitted = []

/-- ENCODE in progress (R150): what `acc`, the cursor, `W` and `OUT` hold in each phase (`W`: DESIGN CHOICE, log
entry 18); no outcome yet (R16). -/
def State.framerInv (s : State) : Prop :=
  s.mem.input.length ≤ s.pmax ∧ s.outcome = none ∧
  match s.tstate with
  | .start => s.acc = 0x00#8 ∧ s.cursor = 0 ∧ s.mem.work = [] ∧ s.mem.output = []
  | .data =>
    s.cursor ≤ s.mem.input.length ∧
    s.acc = absorbAll 0x00#8 (s.mem.input.take s.cursor) ∧
    s.mem.work = s.mem.input.take s.cursor ∧
    s.mem.output = FLAG :: stuff (s.mem.input.take s.cursor)
  | .cksum =>
    s.cursor = s.mem.input.length ∧ s.acc = absorbAll 0x00#8 s.mem.input ∧ s.mem.work = s.mem.input ∧
    s.mem.output = FLAG :: stuff s.mem.input
  | .stop =>
    s.cursor = s.mem.input.length ∧ s.acc = absorbAll 0x00#8 s.mem.input ∧
    s.mem.work = s.mem.input ++ [checksum s.mem.input] ∧
    s.mem.output = FLAG :: stuff (s.mem.input ++ [checksum s.mem.input])
  | .done =>
    s.cursor = s.mem.input.length ∧ s.acc = absorbAll 0x00#8 s.mem.input ∧
    s.mem.work = s.mem.input ++ [checksum s.mem.input] ∧
    s.mem.output = frameOf s.mem.input

/-- DECODE in progress, whichever machine: `W` is what `held body` makes of the body bytes consumed so far (R155's
unstuffed body, R121's stuffed body), with `esc` beside it, until the operation has ended; `OUT` is empty until then and
holds the payload after success (R18; DESIGN CHOICE, log entry 18); `acc` has summed nothing before `ExpectEnd` and the
payload after the comparison (R12; DESIGN CHOICE, log entry 19); in `Done` and `Failed` the outcome is DECODE's (R156). -/
def State.decoderInv (held : List Byte → Bool × List Byte) (s : State) : Prop :=
  s.mem.input.length ≤ fmax s.pmax ∧
  match s.dstate with
  | .expectStart =>
    s.acc = 0x00#8 ∧ s.cursor = 0 ∧ s.esc = false ∧ s.mem.work = [] ∧ s.mem.output = [] ∧ s.outcome = none
  | .readingBody =>
    s.acc = 0x00#8 ∧ s.outcome = none ∧ s.mem.output = [] ∧ s.cursor ≤ s.mem.input.length ∧
    ∃ body, s.mem.input.take s.cursor = FLAG :: body ∧ FLAG ∉ body ∧ held body = (s.esc, s.mem.work)
  | .expectEnd =>
    s.acc = 0x00#8 ∧ s.outcome = none ∧ s.mem.output = [] ∧ s.cursor ≤ s.mem.input.length ∧
    ∃ body, s.mem.input.take s.cursor = FLAG :: body ++ [FLAG] ∧ FLAG ∉ body ∧
      held body = (false, s.mem.work)
  | .done =>
    s.acc = absorbAll 0x00#8 s.mem.output ∧ s.outcome = some (.ok s.mem.output) ∧ decodeFrame s.pmax s.mem.input = .ok s.mem.output ∧
    s.mem.work = s.mem.output ++ [checksum s.mem.output]
  | .failed =>
    (s.acc = 0x00#8 ∨ s.acc = absorbAll 0x00#8 s.mem.work.dropLast) ∧
    ((s.mem.input = [] ∧ s.outcome = some (.error .capacityExceeded)) ∨
      ∃ k, s.outcome = some (.error k) ∧ decodeFrame s.pmax s.mem.input = .error k)

/-- DECODE in progress in the deframer (R155). -/
def State.deframerInv (s : State) : Prop := s.decoderInv (takeAll false)

/-- DECODE in progress in the state machine of R121: no escape is looked at before `ExpectEnd`. -/
def State.stagedInv (s : State) : Prop := s.decoderInv fun body => (false, body)

/-- A stand-alone unit in progress (R140, R141, R142): what it has after the bytes consumed so far. -/
def State.leafInv (s : State) : Prop :=
  s.cursor ≤ s.operand.length ∧
  match s.active with
  | .checksumming => s.acc = absorbAll 0x00#8 (s.operand.take s.cursor)
  | .stuffing => s.emitted = stuff (s.operand.take s.cursor)
  | .unstuffing => takeAll false (s.operand.take s.cursor) = (s.esc, s.emitted)
  | .idle => False
  | .encoding => False
  | .decoding => False
  | .stagedDecoding => False

/-- The invariant of the whole machine. -/
def State.Inv (s : State) : Prop :=
  s.buffersFit ∧
  match s.active with
  | .idle => s.workingInitial
  | .encoding => s.framerInv
  | .decoding => s.deframerInv
  | .stagedDecoding => s.stagedInv
  | .checksumming => s.leafInv
  | .stuffing => s.leafInv
  | .unstuffing => s.leafInv

end Sys2Proof.Machine
end

