-- ==== Sys2Proof/Certificates/Slice0/Obligations.lean ====
section
/-! DEFINITION. The statements for the provers. -/

open Sys2Proof Sys2Proof.Machine

/-! ## Encoding -/

/-- Words written out from spec/30_encoding.md R53, R54, R55, R57, R58, R50 and spec/opcode_table.json decode to the
instruction they stand for. The table's bare bytes are read on the transmit side, and a request's selector is a byte (the
model's choice, log entries 9 and 17). -/
def Obligations.WordsOfEveryFamilyDecode : Prop :=
  decodeTableWord 8 0x00 = some (.encode []) ∧ decodeTableWord 8 0x01 = some (.decode []) ∧
  decodeTableWord 8 0x7E = some .txEscFlag ∧ decodeTableWord 8 0x13 = some .txEscXoff ∧
  decodeTableWord 8 0x41 = some (.txLiteral 0x41#8) ∧
  decode .rxStart [0x7E#8] = .ok (.rxStart, []) ∧ decode .rxBody [0x7E#8, 0x99#8] = .ok (.rxStop, [0x99#8]) ∧
  decode .rxBody [0x7D#8] = .ok (.rxEsc, []) ∧ decode .rxBody [0x11#8] = .ok (.rxLiteral 0x11#8, []) ∧
  decode .rxEscaped [0x7D#8] = .ok (.rxOperand 0x7D#8, []) ∧
  decodeTableWord 16 0x7D31 = some .escPairXon ∧ decodeTableWord 16 0x7DDF = some (.escPair 0xDF#8) ∧
  decode .frame [0x7E#8, 0x00#8, 0x7D#8, 0x5E#8, 0x7D#8, 0x31#8, 0x70#8, 0x7E#8] =
    .ok (.frame [0x00#8, 0x7E#8, 0x11#8], [])

/-- Every well-formed instruction that has an encoding is read back from it with every operand at every value,
whatever bytes follow (a request has none after it: its operand is all of them). How a request is laid out in bytes is
the model's choice (log entry 17). -/
def Obligations.DecodeOfEncodeIsTheInstruction : Prop :=
  ∀ (i : Instr) (c : Ctx) (bs : List Byte), i.wf = true → encode i = some (c, bs) →
    decode c bs = .ok (i, []) ∧ (c ≠ .request → ∀ rest, decode c (bs ++ rest) = .ok (i, rest))

/-- Whatever the decoder reads, in every context but the whole wire frame, is a well-formed instruction, and the bytes
it consumed are that instruction's encoding: no bit is misread or dropped. How a request is laid out in bytes is the
model's choice (log entry 17). -/
def Obligations.DecodedBytesAreTheEncoding : Prop :=
  ∀ (c : Ctx) (bs rest : List Byte) (i : Instr), c ≠ .frame → decode c bs = .ok (i, rest) →
    i.wf = true ∧ ∃ c' used, encode i = some (c', used) ∧ bs = used ++ rest

/-- Every one of the 256 byte values is an instruction on the transmit side and, on the receive side, in the body and
in the Unstuffer, with and without an escape pending (R54, R65); only the Decoder waiting for the start delimiter
rejects a byte, every one but `FLAG`. -/
def Obligations.EveryByteIsClassified : Prop :=
  (∀ (c : Ctx) (b : Byte) (rest : List Byte),
    c ∈ [Ctx.tx, .rxBody, .rxPairs, .rxEscaped, .unstuff, .unstuffPairs, .unstuffOperand] →
    ∃ i r, decode c (b :: rest) = .ok (i, r)) ∧
  (∀ (b : Byte) (rest : List Byte), b ≠ 0x7E#8 → decode .rxStart (b :: rest) = .error .missingStart) ∧
  decode .rxStart [] = .error .missingStart ∧ decode .rxBody [] = .error .noStop

/-! ## The Checksum unit -/

/-- CHECKSUM on an idle instance hands over 255 minus the byte sum mod 256, with no error for any sequence; it is an
internal unit with no selector (R80). -/
def Obligations.ChecksumIsComplementOfByteSum : Prop :=
  ∀ (x : List Byte) (s : State), s.active = .idle →
    exec (.checksum x) s = .next (s.handOver (.byte (BitVec.ofNat 8 (255 - byteSum x % 256)))) ∧
    encode (.checksum x) = none

/-- The five laws the spec derives from R80: verification identity, append, permutation invariance, single-bit
sensitivity, and cancellation. And what they do not give DECODE: a flipped bit on the wire can yield `Ok` with a wrong
payload, by the spec's example of R128 (b). -/
def Obligations.ChecksumLaws : Prop :=
  (∀ (p : List Byte) (c : Byte), checksum p = c ↔ (byteSum p + c.toNat) % 256 = 255) ∧
  (∀ x y : List Byte, checksum (x ++ y) = not8 (BitVec.ofNat 8 ((byteSum x + byteSum y) % 256))) ∧
  (∀ x y : List Byte, x.Perm y → checksum x = checksum y) ∧
  (∀ (u : List Byte) (k : Nat) (b : Byte) (j : Nat), byteSum u % 256 = 255 → u[k]? = some b → j < 8 →
    byteSum (u.set k (b ^^^ (1#8 <<< j))) % 256 ≠ 255) ∧
  checksum [0x01#8, 0x02#8] = checksum [0x02#8, 0x01#8] ∧ checksum [0x10#8] = checksum [0x0F#8, 0x01#8] ∧
  (∀ s : State, s.active = .idle → 1 ≤ s.pmax →
    exec (.decode [0x7E#8, 0xFF#8, 0x7F#8, 0x81#8, 0x7E#8]) s = .next (s.deliver (.ok [0xFF#8, 0x7F#8])) ∧
    exec (.decode [0x7E#8, 0xFF#8, 0x7F#8 ^^^ 0x01#8, 0x81#8, 0x7E#8]) s = .next (s.deliver (.ok [])))

/-! ## The Stuffer and the Unstuffer -/

/-- STUFF on an idle instance replaces every reserved byte by the marker and the byte xor 0x20 and lets every other
byte through, with no error for any sequence (R90). -/
def Obligations.StuffReplacesReservedBytes : Prop :=
  ∀ (x : List Byte) (s : State), s.active = .idle →
    exec (.stuff x) s = .next (s.handOver (.bytes (x.flatMap fun d =>
      if d = 0x7E#8 ∨ d = 0x7D#8 ∨ d = 0x11#8 ∨ d = 0x13#8 then [0x7D#8, d ^^^ 0x20#8] else [d])))

/-- Length of STUFF, and STUFF of a concatenation. -/
def Obligations.StuffLengthAndConcatenation : Prop :=
  (∀ x : List Byte, (stuff x).length = x.length + reservedCount x ∧ reservedCount x ≤ x.length ∧
    (reservedCount x = 0 ↔ ∀ d ∈ x, isReserved d = false) ∧
    (reservedCount x = x.length ↔ ∀ d ∈ x, isReserved d = true)) ∧
  (∀ x y : List Byte, stuff (x ++ y) = stuff x ++ stuff y) ∧
  (∀ d : Byte, stuff [d] = emit d)

/-- The alphabet of STUFF's output: no `FLAG`, `XON` or `XOFF`; every marker is followed at once by a canonical
operand; and the left-to-right parse is at a symbol boundary wherever one input byte's bytes end. -/
def Obligations.StuffedAlphabet : Prop :=
  ∀ x : List Byte,
    FLAG ∉ stuff x ∧ XON ∉ stuff x ∧ XOFF ∉ stuff x ∧
    (∀ k, (stuff x)[k]? = some ESC → ∃ v, (stuff x)[k + 1]? = some v ∧ isCanonicalOperand v = true) ∧
    (∀ y z : List Byte, x = y ++ z → stuff x = stuff y ++ stuff z ∧ takeAll false (stuff y) = (false, y))

/-- UNSTUFF undoes STUFF for every byte sequence, so it never fails on STUFF's output and STUFF is injective; the
converse does not hold (R98). -/
def Obligations.UnstuffInvertsStuff : Prop :=
  (∀ (x : List Byte) (s : State), s.active = .idle →
    exec (.unstuff (stuff x)) s = .next (s.handOver (.bytes x))) ∧
  (∀ x y : List Byte, stuff x = stuff y → x = y) ∧
  unstuff [0x7D#8, 0x00#8] = .ok [0x20#8] ∧ stuff [0x20#8] = [0x20#8]

/-- UNSTUFF by cases on the front of the sequence, which is the whole of it; on an idle instance it hands over that
result. That `0x7E` outside DECODE is an ordinary byte is the spec's own decision D23. -/
def Obligations.UnstuffByFrontCases : Prop :=
  (∀ (x : List Byte) (s : State), s.active = .idle →
    (∀ u, unstuff x = .ok u → exec (.unstuff x) s = .next (s.handOver (.bytes u))) ∧
    (∀ k, unstuff x = .error k → k = .truncatedEscape ∧
      exec (.unstuff x) s = .next (s.handOver (.error .truncatedEscape)))) ∧
  unstuff [] = .ok [] ∧ unstuff [0x7D#8] = .error .truncatedEscape ∧
  (∀ (v : Byte) (rest u : List Byte), unstuff rest = .ok u → unstuff (0x7D#8 :: v :: rest) = .ok ((v ^^^ 0x20#8) :: u)) ∧
  (∀ (v : Byte) (rest : List Byte), unstuff rest = .error .truncatedEscape →
    unstuff (0x7D#8 :: v :: rest) = .error .truncatedEscape) ∧
  (∀ (a : Byte) (rest u : List Byte), a ≠ 0x7D#8 → unstuff rest = .ok u → unstuff (a :: rest) = .ok (a :: u)) ∧
  (∀ (a : Byte) (rest : List Byte), a ≠ 0x7D#8 → unstuff rest = .error .truncatedEscape →
    unstuff (a :: rest) = .error .truncatedEscape)

/-- UNSTUFF fails exactly when the run of markers at the end of its input has odd length. -/
def Obligations.UnstuffFailsOnOddEscapeRun : Prop :=
  ∀ x : List Byte, (unstuff x = .error .truncatedEscape ↔ trailingEscRun x % 2 = 1) ∧
    (trailingEscRun x % 2 = 0 → ∃ u, unstuff x = .ok u)

/-- UNSTUFF removes one byte for each pair the scan formed, and never lengthens. -/
def Obligations.UnstuffLength : Prop :=
  ∀ x u : List Byte, unstuff x = .ok u →
    u.length + pairCount false x = x.length ∧ (x.length + 1) / 2 ≤ u.length ∧ u.length ≤ x.length

/-- UNSTUFF of a concatenation is the concatenation where no escape is pending at the cut, and need not be elsewhere.
-/
def Obligations.UnstuffAtCuts : Prop :=
  (∀ x y u : List Byte, unstuff x = .ok u →
    (∀ v, unstuff y = .ok v → unstuff (x ++ y) = .ok (u ++ v)) ∧
    (unstuff y = .error .truncatedEscape → unstuff (x ++ y) = .error .truncatedEscape)) ∧
  unstuff ([0x7D#8] ++ [0x5E#8]) = .ok [0x7E#8] ∧ unstuff [0x7D#8] = .error .truncatedEscape

/-- UNSTUFF accepts any of the 256 byte values as an escape operand: a marker that opens a pair takes the byte after it,
which yields itself with bit 5 inverted, and there is no error for it. That `0x7E` is among them is the spec's own
decision D23; inside DECODE a delimiter ends the body first (`FlagIsNeverAnOperandInDecode`). -/
def Obligations.AnyOperandIsAccepted : Prop :=
  (∀ (x y u w : List Byte) (v : Byte), unstuff x = .ok u → unstuff y = .ok w →
    unstuff (x ++ [0x7D#8, v] ++ y) = .ok (u ++ [v ^^^ 0x20#8] ++ w)) ∧
  unstuff [0x7D#8, 0x00#8] = .ok [0x20#8] ∧ unstuff [0x7D#8, 0x20#8] = .ok [0x00#8] ∧
  unstuff [0x7D#8, 0xDF#8] = .ok [0xFF#8] ∧ unstuff [0x7D#8, 0x7D#8] = .ok [0x5D#8]

/-! ## The frame and ENCODE -/

/-- FRAME on an idle instance hands over START, DATA, CKSUM, STOP; each field has the length R50 gives; and DATA with
CKSUM is the stuffing of the payload with its checksum appended. That the layout is executed as an instruction, with
no capacity check, is the model's choice (log entry 13). -/
def Obligations.FrameHasItsFourFields : Prop :=
  ∀ (p : List Byte) (s : State), s.active = .idle →
    exec (.frame p) s = .next (s.handOver (.bytes ([0x7E#8] ++ stuff p ++ stuff [checksum p] ++ [0x7E#8]))) ∧
    (stuff p).length = p.length + reservedCount p ∧
    (stuff [checksum p]).length = (if isReserved (checksum p) then 2 else 1) ∧
    stuff p ++ stuff [checksum p] = stuff (p ++ [checksum p])

/-- The exact length of a frame, its bounds, and frames that reach both bounds. -/
def Obligations.FrameLengthLaw : Prop :=
  (∀ p : List Byte, (frameOf p).length = p.length + 3 + reservedCount (p ++ [checksum p]) ∧
    p.length + 3 ≤ (frameOf p).length ∧ (frameOf p).length ≤ 2 * p.length + 4 ∧
    (∀ pmax, p.length ≤ pmax → (frameOf p).length ≤ fmax pmax)) ∧
  frameOf [] = [0x7E#8, 0xFF#8, 0x7E#8] ∧ (frameOf [0x00#8]).length = 4 ∧
  frameOf [0x81#8] = [0x7E#8, 0x81#8, 0x7D#8, 0x5E#8, 0x7E#8] ∧
  (frameOf (List.replicate 127 0x7E#8)).length = 258

/-- ENCODE on an idle instance: the frame if the payload has at most `PMAX` bytes, `CapacityExceeded` and no bytes if
it has more, whatever its content (R110). -/
def Obligations.EncodeGivesFrameOrCapacityExceeded : Prop :=
  ∀ (p : List Byte) (s : State), s.active = .idle →
    (p.length ≤ s.pmax →
      exec (.encode p) s =
        .next (s.deliver (.ok ([0x7E#8] ++ stuff (p ++ [checksum p]) ++ [0x7E#8])))) ∧
    (s.pmax < p.length → exec (.encode p) s = .next (s.deliver (.error .capacityExceeded)))

/-- What ENCODE's frames are like: delimiters at both ends and nowhere else, no `XON` or `XOFF`, every marker followed
by a canonical operand, at most `FMAX` bytes, different for different payloads, the same on every instance that
accepts the payload. -/
def Obligations.EncodedFramesAreDelimiterSafe : Prop :=
  (∀ (m : Nat) (p f : List Byte), encodeFrame m p = .ok f →
    f[0]? = some FLAG ∧ f[f.length - 1]? = some FLAG ∧
    (∀ k, 0 < k → k < f.length - 1 → f[k]? ≠ some FLAG) ∧ XON ∉ f ∧ XOFF ∉ f ∧
    (∀ k, f[k]? = some ESC → ∃ v, f[k + 1]? = some v ∧ isCanonicalOperand v = true) ∧
    p.length + 3 ≤ f.length ∧ f.length ≤ 2 * p.length + 4 ∧ f.length ≤ fmax m) ∧
  (∀ (m n : Nat) (p q f : List Byte), encodeFrame m p = .ok f → encodeFrame n q = .ok f → p = q) ∧
  (∀ (m n : Nat) (p f g : List Byte), encodeFrame m p = .ok f → encodeFrame n p = .ok g → f = g)

/-! ## DECODE -/

/-- ROUND TRIP: what ENCODE gives for a payload of at most `PMAX` bytes, DECODE on any instance of the same `PMAX`
gives back (R125). -/
def Obligations.DecodeOfEncodeReturnsThePayload : Prop :=
  ∀ (p : List Byte) (s u : State), s.active = .idle → u.active = .idle → s.pmax = u.pmax → p.length ≤ s.pmax →
    ∃ f, exec (.encode p) s = .next (s.deliver (.ok f)) ∧ exec (.decode f) u = .next (u.deliver (.ok p))

/-- Exactly when DECODE gives `Ok`, and what. That an over-long input is refused first, that bytes after the terminating
delimiter are ignored, and that a payload longer than `PMAX` is returned are the spec's own decisions D7, D9 and D19. -/
def Obligations.DecodeAcceptsExactly : Prop :=
  ∀ (inp p : List Byte) (s : State), s.active = .idle →
    ((inp.length ≤ fmax s.pmax ∧ inp[0]? = some FLAG ∧
      ∃ j u, isTerminator inp j ∧ unstuff (bodyAt inp j) = .ok u ∧ 1 ≤ u.length ∧ byteSum u % 256 = 255 ∧
        p = u.dropLast) →
      exec (.decode inp) s = .next (s.deliver (.ok p))) ∧
    (exec (.decode inp) s = .next (s.deliver (.ok p)) →
      inp.length ≤ fmax s.pmax ∧ inp[0]? = some FLAG ∧
      ∃ j u, isTerminator inp j ∧ unstuff (bodyAt inp j) = .ok u ∧ 1 ≤ u.length ∧ byteSum u % 256 = 255 ∧
        p = u.dropLast)

/-- The exact cause of each of DECODE's six errors, each with every condition of higher priority false. That the
capacity comes first and that an empty input has no start delimiter are the spec's own decisions D7 and D8; which byte
is `expected` and which `actual` is its decision D11. -/
def Obligations.DecodeErrorCauses : Prop :=
  ∀ (inp : List Byte) (s : State), s.active = .idle →
    (exec (.decode inp) s = .next (s.deliver (.error .capacityExceeded)) ↔ fmax s.pmax < inp.length) ∧
    (exec (.decode inp) s = .next (s.deliver (.error .missingStartDelimiter)) ↔
      inp.length ≤ fmax s.pmax ∧ inp[0]? ≠ some FLAG) ∧
    (exec (.decode inp) s = .next (s.deliver (.error .unterminatedFrame)) ↔
      inp.length ≤ fmax s.pmax ∧ inp[0]? = some FLAG ∧ ∀ j, 1 ≤ j → inp[j]? ≠ some FLAG) ∧
    (exec (.decode inp) s = .next (s.deliver (.error .truncatedEscape)) ↔
      inp.length ≤ fmax s.pmax ∧ inp[0]? = some FLAG ∧
      ∃ j, isTerminator inp j ∧ trailingEscRun (bodyAt inp j) % 2 = 1) ∧
    (exec (.decode inp) s = .next (s.deliver (.error .emptyBody)) ↔
      inp.length ≤ fmax s.pmax ∧ inp[0]? = some FLAG ∧ inp[1]? = some FLAG) ∧
    (∀ e a : Byte, exec (.decode inp) s = .next (s.deliver (.error (.checksumMismatch e a))) ↔
      inp.length ≤ fmax s.pmax ∧ inp[0]? = some FLAG ∧
      ∃ j u, isTerminator inp j ∧ unstuff (bodyAt inp j) = .ok u ∧ u.getLast? = some a ∧
        e = checksum u.dropLast ∧ e ≠ a)

/-- Bytes after the terminating delimiter change nothing while the whole input fits (the spec's own decision D9). -/
def Obligations.TrailingBytesAreIgnored : Prop :=
  ∀ (body rest : List Byte) (s : State), s.active = .idle → FLAG ∉ body →
    body.length + 2 + rest.length ≤ fmax s.pmax →
    exec (.decode (FLAG :: body ++ FLAG :: rest)) s = exec (.decode (FLAG :: body ++ [FLAG])) s ∧
    ∃ r, exec (.decode (FLAG :: body ++ FLAG :: rest)) s = .next (s.deliver r)

/-- A `FLAG` right after an open escape marker ends the body and leaves the marker without its operand; a `FLAG` right
after the start delimiter ends an empty body. -/
def Obligations.FlagIsNeverAnOperandInDecode : Prop :=
  ∀ (body rest : List Byte) (s : State), s.active = .idle →
    (FLAG ∉ body → trailingEscRun body % 2 = 0 → body.length + 3 + rest.length ≤ fmax s.pmax →
      exec (.decode (FLAG :: body ++ ESC :: FLAG :: rest)) s = .next (s.deliver (.error .truncatedEscape))) ∧
    (2 + rest.length ≤ fmax s.pmax →
      exec (.decode (FLAG :: FLAG :: rest)) s = .next (s.deliver (.error .emptyBody)))

/-- DECODE does not hold the payload to `PMAX`: it is at most `2*PMAX + 1` bytes long, and for every `PMAX` a payload
of that length is returned (the spec's own decisions D2 and D19). -/
def Obligations.DecodedPayloadBound : Prop :=
  (∀ (m : Nat) (inp p : List Byte), decodeFrame m inp = .ok p → p.length ≤ 2 * m + 1) ∧
  (∀ s : State, s.active = .idle → ∃ inp p, p.length = 2 * s.pmax + 1 ∧
    exec (.decode inp) s = .next (s.deliver (.ok p)) ∧
    exec (.encode p) s = .next (s.deliver (.error .capacityExceeded)))

/-- One-pass validation gives the verdict of recomputing the checksum, and its two error bytes are the ones R157
computes. The byte-serial machine is the spec's own decision D14. -/
def Obligations.OnePassValidationAgrees : Prop :=
  (∀ u : List Byte, onePassVerdict u = verdict u) ∧
  (∀ (p : List Byte) (a : Byte),
    (verdict (p ++ [a]) = .ok p ↔ absorbAll 0x00#8 (p ++ [a]) = 0xFF#8) ∧
    checksum p = 0xFF#8 - absorbAll 0x00#8 (p ++ [a]) + a)

/-! ## Requests and instances -/

/-- A whole operation asked of an instance that has one in progress is refused by name: the spec gives it no meaning
(R190, U3, and its own decision D21; the model's choice, log entry 11). That a DECODE in `Done` or `Failed` still counts
as one is the model's choice too (log entry 4). -/
def Obligations.BusyInstanceRefusesOperations : Prop :=
  ∀ (x : List Byte) (s : State), s.active ≠ .idle →
    ∀ i ∈ [Instr.encode x, .decode x, .checksum x, .stuff x, .unstuff x, .frame x], exec i s = .refused .busy

/-- The frame of the whole operations: on an idle instance they answer a next state in which only the outcome, or what
the unit handed over, is new, and the instance is idle in the initial working state: every register at R20's value and
no byte of any buffer readable. ENCODE and DECODE deliver their result as the outcome and hand nothing over; the others
hand over their result and deliver no outcome. Where a unit's result stands is the model's choice (log entries 6
and 12). -/
def Obligations.WholeOperationsRetainNothing : Prop :=
  ∀ (x : List Byte) (s : State), s.active = .idle →
    ∀ c ∈ ([(.encode x, some (encodeFrame s.pmax x), none), (.decode x, some (decodeFrame s.pmax x), none),
        (.checksum x, none, some (.byte (checksum x))), (.stuff x, none, some (.bytes (stuff x))),
        (.unstuff x, none, some (unstuff x).toUnit), (.frame x, none, some (.bytes (frameOf x)))] :
        List (Instr × Option Result × Option UnitResult)),
      ∃ t, exec c.1 s = .next t ∧ t.outcome = c.2.1 ∧ t.unitOut = c.2.2 ∧ t.active = .idle ∧ t.workingInitial ∧
        (∀ k, bufRead t.mem.input k = none ∧ bufRead t.mem.work k = none ∧ bufRead t.mem.output k = none) ∧
        t.pmax = s.pmax ∧ t.pending = s.pending ∧ t.resetReq = s.resetReq

/-- The outcome of a request is a function of its selector, its input and `PMAX` only: two idle instances of the same
`PMAX`, with any history, one taking the request in one step and one byte by byte, deliver the same outcome, and both
are left in the initial working state: nothing persists (R10). The byte-serial reading of a request is the spec's own
decision D14. -/
def Obligations.OutcomeDependsOnTheRequestOnly : Prop :=
  ∀ (s u : State) (op : BitVec 1) (pairs : Bool) (inp : List Byte) (q r : List Command),
    s.active = .idle → u.active = .idle → s.resetReq = false → u.resetReq = false → s.pmax = u.pmax →
    s.pending = .request op inp :: q → u.pending = .serial op pairs inp :: r →
    ∃ k s' u', Host.Core.run core 1 s = .next s' ∧ Host.Core.run core k u = .next u' ∧
      s'.active = .idle ∧ u'.active = .idle ∧ s'.workingInitial ∧ u'.workingInitial ∧
      s'.pending = q ∧ u'.pending = r ∧ s'.outcome.isSome = true ∧ s'.outcome = u'.outcome

/-! ## The transmit side -/

/-- In the framer's T_DATA each transmit class appends its bytes to `OUT`, the byte enters the checksum accumulator
and the cursor moves by one; nothing else changes but that the byte is appended to `W`, which R150's table does not
write: that is the model's reading of R18 (log entry 18). The byte-serial machine is the spec's own decision D14. -/
def Obligations.TransmitPayloadByte : Prop :=
  ∀ s : State, s.active = .encoding → s.tstate = .data → s.mem.work.length + 1 ≤ fmax s.pmax →
    (s.mem.output.length + 2 ≤ fmax s.pmax →
      exec .txEscFlag s = .next { s with
        acc := s.acc + 0x7E#8, cursor := s.cursor + 1,
        mem := { s.mem with work := s.mem.work ++ [0x7E#8], output := s.mem.output ++ [0x7D#8, 0x5E#8] } } ∧
      exec .txEscEsc s = .next { s with
        acc := s.acc + 0x7D#8, cursor := s.cursor + 1,
        mem := { s.mem with work := s.mem.work ++ [0x7D#8], output := s.mem.output ++ [0x7D#8, 0x5D#8] } } ∧
      exec .txEscXon s = .next { s with
        acc := s.acc + 0x11#8, cursor := s.cursor + 1,
        mem := { s.mem with work := s.mem.work ++ [0x11#8], output := s.mem.output ++ [0x7D#8, 0x31#8] } } ∧
      exec .txEscXoff s = .next { s with
        acc := s.acc + 0x13#8, cursor := s.cursor + 1,
        mem := { s.mem with work := s.mem.work ++ [0x13#8], output := s.mem.output ++ [0x7D#8, 0x33#8] } }) ∧
    (∀ d : Byte, (Instr.txLiteral d).wf = true → s.mem.output.length + 1 ≤ fmax s.pmax →
      exec (.txLiteral d) s = .next { s with
        acc := s.acc + d, cursor := s.cursor + 1,
        mem := { s.mem with work := s.mem.work ++ [d], output := s.mem.output ++ [d] } })

/-- In the framer's T_CKSUM the checksum byte is stuffed like any byte, but enters no sum and moves no cursor; the
framer goes to T_STOP. That the byte is appended to `W`, after the payload, is the model's reading of R18 (log
entry 18). The byte-serial machine is the spec's own decision D14. -/
def Obligations.TransmitChecksumByte : Prop :=
  ∀ s : State, s.active = .encoding → s.tstate = .cksum → s.mem.work.length + 1 ≤ fmax s.pmax →
    (s.mem.output.length + 2 ≤ fmax s.pmax →
      exec .txEscFlag s = .next { s with
        tstate := .stop,
        mem := { s.mem with work := s.mem.work ++ [0x7E#8], output := s.mem.output ++ [0x7D#8, 0x5E#8] } } ∧
      exec .txEscEsc s = .next { s with
        tstate := .stop,
        mem := { s.mem with work := s.mem.work ++ [0x7D#8], output := s.mem.output ++ [0x7D#8, 0x5D#8] } } ∧
      exec .txEscXon s = .next { s with
        tstate := .stop,
        mem := { s.mem with work := s.mem.work ++ [0x11#8], output := s.mem.output ++ [0x7D#8, 0x31#8] } } ∧
      exec .txEscXoff s = .next { s with
        tstate := .stop,
        mem := { s.mem with work := s.mem.work ++ [0x13#8], output := s.mem.output ++ [0x7D#8, 0x33#8] } }) ∧
    (∀ d : Byte, (Instr.txLiteral d).wf = true → s.mem.output.length + 1 ≤ fmax s.pmax →
      exec (.txLiteral d) s = .next { s with
        tstate := .stop, mem := { s.mem with work := s.mem.work ++ [d], output := s.mem.output ++ [d] } })

/-- The Stuffer on its own, wherever it is not the framer that gives it the byte: each transmit class returns its
bytes, and in a stand-alone run the cursor moves past the input byte. What a unit returns stands in a field of the
model's own (log entries 6 and 10). -/
def Obligations.StufferAlone : Prop :=
  ∀ (s : State) (n : Nat),
    (s.active = .stuffing ∧ n = 1) ∨
      (s.active ≠ .stuffing ∧ ¬ (s.active = .encoding ∧ (s.tstate = .data ∨ s.tstate = .cksum)) ∧ n = 0) →
    exec .txEscFlag s = .next { s with emitted := s.emitted ++ [0x7D#8, 0x5E#8], cursor := s.cursor + n } ∧
    exec .txEscEsc s = .next { s with emitted := s.emitted ++ [0x7D#8, 0x5D#8], cursor := s.cursor + n } ∧
    exec .txEscXon s = .next { s with emitted := s.emitted ++ [0x7D#8, 0x31#8], cursor := s.cursor + n } ∧
    exec .txEscXoff s = .next { s with emitted := s.emitted ++ [0x7D#8, 0x33#8], cursor := s.cursor + n } ∧
    (∀ d : Byte, (Instr.txLiteral d).wf = true →
      exec (.txLiteral d) s = .next { s with emitted := s.emitted ++ [d], cursor := s.cursor + n })

/-- A push to a full buffer ends the operation with `CapacityExceeded` and no bytes (R33): the framer's at once, for
either of its buffers and for each of its two delimiters; DECODE's through `Failed`: a literal, an operand or an escape
pair for a full `W` in the deframer, a body byte for a full `W` in the machine of R121 and more unstuffed bytes than `W`
holds in its `ExpectEnd`, and the payload for a full `OUT` in both. `NoPushEverOverflows` says it cannot happen. The
byte-serial machine is the spec's own decision D14; which buffers the framer and `ExpectEnd` push to, and that UNSTUFF
starts with an empty `W`, is the model's reading of R18 and R33 (log entry 18), that a pair is one symbol and that DECODE
writes `acc` in `ExpectEnd` only its choice (log entries 5 and 19). -/
def Obligations.FullBufferGivesCapacityExceeded : Prop :=
  (∀ (s : State) (d : Byte), s.active = .encoding → s.tstate = .data ∨ s.tstate = .cksum →
    fmax s.pmax ≤ s.mem.work.length ∨ fmax s.pmax < s.mem.output.length + (emit d).length →
    exec (txClass d) s = .next (s.deliver (.error .capacityExceeded))) ∧
  (∀ s : State, s.resetReq = false → s.active = .encoding → s.tstate = .start ∨ s.tstate = .stop →
    fmax s.pmax ≤ s.mem.output.length → step s = .next (s.deliver (.error .capacityExceeded))) ∧
  (∀ (s : State) (b : Byte), s.active = .decoding → s.dstate = .readingBody → b ≠ 0x7E#8 →
    fmax s.pmax ≤ s.mem.work.length →
    (s.esc = false → b ≠ 0x7D#8 →
      exec (.rxLiteral b) s = .next { s with dstate := .failed, outcome := some (.error .capacityExceeded) }) ∧
    (s.esc = true →
      exec (.rxOperand b) s = .next { s with dstate := .failed, outcome := some (.error .capacityExceeded) }) ∧
    (s.esc = false → ∀ i ∈ [Instr.escPair b, .escPairFlag, .escPairEsc, .escPairXon, .escPairXoff],
      exec i s = .next { s with
        esc := true, cursor := s.cursor + 1, dstate := .failed, outcome := some (.error .capacityExceeded) })) ∧
  (∀ (s : State) (b : Byte), s.resetReq = false → s.active = .stagedDecoding → s.dstate = .readingBody →
    bufRead s.mem.input s.cursor = some b → b ≠ 0x7E#8 → fmax s.pmax ≤ s.mem.work.length →
    step s = .next { s with dstate := .failed, outcome := some (.error .capacityExceeded) }) ∧
  (∀ s : State, s.resetReq = false → s.active = .stagedDecoding → s.dstate = .expectEnd →
    fmax s.pmax < (takeAll false s.mem.work).2.length →
    step s = .next { s with
      esc := false, dstate := .failed, outcome := some (.error .capacityExceeded),
      mem := { s.mem with work := [] } }) ∧
  (∀ (s : State) (p : List Byte), s.resetReq = false → s.dstate = .expectEnd → p ≠ [] →
    fmax s.pmax < s.mem.output.length + p.length →
    (s.active = .decoding → s.mem.work = p ++ [checksum p] →
      step s = .next { s with
        acc := absorbAll 0x00#8 p, dstate := .failed, outcome := some (.error .capacityExceeded) }) ∧
    (s.active = .stagedDecoding → unstuff s.mem.work = .ok (p ++ [checksum p]) → p.length + 1 ≤ fmax s.pmax →
      step s = .next { s with
        acc := absorbAll 0x00#8 p, esc := false, dstate := .failed, outcome := some (.error .capacityExceeded),
        mem := { s.mem with work := p ++ [checksum p] } }))

/-- A bounded buffer: a push below the capacity appends the byte at the index that was the length and leaves every
byte below it, a push at the capacity is not made, and no read at or above the length gives a value (R33). -/
def Obligations.BufferReadsAndPushes : Prop :=
  ∀ (cap : Nat) (buf : List Byte) (b : Byte),
    (buf.length < cap → ∃ buf', bufPush cap buf b = some buf' ∧ buf'.length = buf.length + 1 ∧
      bufRead buf' buf.length = some b ∧ ∀ k, k < buf.length → bufRead buf' k = bufRead buf k) ∧
    (cap ≤ buf.length → bufPush cap buf b = none) ∧
    (∀ k, buf.length ≤ k → bufRead buf k = none) ∧ (∀ k, k < buf.length → (bufRead buf k).isSome = true)

/-- The frame of the five transmit classes, in every state whose `W` and `OUT` have room where the framer pushes to
them: the receive side's registers, the parameter, the outcome and the caller's side stay; `IN` reads as before at every
index, `W` and `OUT` at every index below their old lengths, which is where the bytes are stored, and at every index
where the framer asks for no byte. The byte-serial machine is the spec's own decision D14; that the framer writes `W` is
the model's reading of R18 (log entry 18). -/
def Obligations.TransmitFrame : Prop :=
  ∀ (s t : State) (i : Instr) (d : Byte),
    i ∈ [Instr.txEscFlag, .txEscEsc, .txEscXon, .txEscXoff, .txLiteral d] →
    (s.active = .encoding → s.tstate = .data ∨ s.tstate = .cksum →
      s.mem.work.length + 1 ≤ fmax s.pmax ∧ s.mem.output.length + 2 ≤ fmax s.pmax) →
    exec i s = .next t →
    t.pmax = s.pmax ∧ t.esc = s.esc ∧ t.dstate = s.dstate ∧ t.outcome = s.outcome ∧ t.active = s.active ∧
    t.pairs = s.pairs ∧ t.operand = s.operand ∧ t.unitOut = s.unitOut ∧ t.pending = s.pending ∧
    t.resetReq = s.resetReq ∧
    (t.acc ≠ s.acc → s.active = .encoding ∧ s.tstate = .data) ∧
    (t.cursor ≠ s.cursor →
      t.cursor = s.cursor + 1 ∧ ((s.active = .encoding ∧ s.tstate = .data) ∨ s.active = .stuffing)) ∧
    (t.tstate ≠ s.tstate → s.active = .encoding ∧ s.tstate = .cksum ∧ t.tstate = .stop) ∧
    (t.emitted ≠ s.emitted → ¬ (s.active = .encoding ∧ (s.tstate = .data ∨ s.tstate = .cksum))) ∧
    (∀ k, bufRead t.mem.input k = bufRead s.mem.input k) ∧
    (∀ k, k < s.mem.work.length → bufRead t.mem.work k = bufRead s.mem.work k) ∧
    (∀ k, k < s.mem.output.length → bufRead t.mem.output k = bufRead s.mem.output k) ∧
    (¬ (s.active = .encoding ∧ (s.tstate = .data ∨ s.tstate = .cksum)) →
      ∀ k, bufRead t.mem.work k = bufRead s.mem.work k ∧ bufRead t.mem.output k = bufRead s.mem.output k)

/-! ## The receive side -/

/-- RX_START in `ExpectStart` accepts the start delimiter, and any other byte there fails; RX_STOP in `ReadingBody`
ends the body, in the deframer only if no escape is pending: with one it fails there with `TruncatedEscape`. The
byte-serial machine is the spec's own decision D14. The decoder presents no RX_LITERAL in `ExpectStart`: that it acts
there by its byte is the model's choice (log entry 10). -/
def Obligations.DelimitersMoveTheDecoder : Prop :=
  ∀ s : State, s.active = .decoding ∨ s.active = .stagedDecoding →
    (s.dstate = .expectStart →
      exec .rxStart s = .next { s with cursor := s.cursor + 1, dstate := .readingBody } ∧
      ∀ b : Byte, b ≠ 0x7E#8 →
        exec (.rxLiteral b) s = .next { s with dstate := .failed, outcome := some (.error .missingStartDelimiter) }) ∧
    (s.dstate = .readingBody → s.esc = false ∨ s.active = .stagedDecoding →
      exec .rxStop s = .next { s with cursor := s.cursor + 1, dstate := .expectEnd }) ∧
    (s.dstate = .readingBody → s.esc = true → s.active = .decoding →
      exec .rxStop s = .next { s with dstate := .failed, outcome := some (.error .truncatedEscape) })

/-- A symbol acts by its bytes, in every state: the state gives a byte its meaning there (R54), so a byte under
another symbol's name has the same effect (the model's choice, log entry 10), and an escape pair is its marker and
then its operand (R57). -/
def Obligations.SymbolsActByTheirBytes : Prop :=
  ∀ (s : State) (b : Byte),
    exec (.rxOperand b) s = exec (.rxLiteral b) s ∧ exec .rxEsc s = exec (.rxLiteral 0x7D#8) s ∧
    exec .rxStart s = exec (.rxLiteral 0x7E#8) s ∧ exec .rxStop s = exec (.rxLiteral 0x7E#8) s ∧
    (∃ t, exec .rxEsc s = .next t ∧ exec (.escPair b) s = exec (.rxOperand b) t) ∧
    exec .escPairFlag s = exec (.escPair 0x5E#8) s ∧ exec .escPairEsc s = exec (.escPair 0x5D#8) s ∧
    exec .escPairXon s = exec (.escPair 0x31#8) s ∧ exec .escPairXoff s = exec (.escPair 0x33#8) s ∧
    exec (txClass b) s = exec (.txLiteral b) s

/-- The three body symbols in the deframer's `ReadingBody`: RX_ESC opens a pair and appends nothing, RX_LITERAL appends
its byte, RX_OPERAND appends its byte xor 0x20 and closes the pair. In the state machine of R121 a step appends every
body byte as it is, a marker and its operand among them, and opens nothing. The byte-serial machine is the spec's own
decision D14; that `acc` absorbs no byte before `ExpectEnd` is the model's choice (log entry 19). -/
def Obligations.BodySymbolsFillTheBody : Prop :=
  ∀ s : State, s.dstate = .readingBody →
    (s.active = .decoding → s.esc = false →
      exec .rxEsc s = .next { s with esc := true, cursor := s.cursor + 1 }) ∧
    (s.active = .decoding → ∀ b : Byte, (Instr.rxLiteral b).wf = true → b ≠ 0x7E#8 → s.esc = false →
      s.mem.work.length + 1 ≤ fmax s.pmax →
      exec (.rxLiteral b) s = .next { s with
        cursor := s.cursor + 1, mem := { s.mem with work := s.mem.work ++ [b] } }) ∧
    (s.active = .decoding → ∀ v : Byte, v ≠ 0x7E#8 → s.esc = true → s.mem.work.length + 1 ≤ fmax s.pmax →
      exec (.rxOperand v) s = .next { s with
        esc := false, cursor := s.cursor + 1, mem := { s.mem with work := s.mem.work ++ [v ^^^ 0x20#8] } }) ∧
    (s.active = .stagedDecoding → s.resetReq = false → ∀ b : Byte, bufRead s.mem.input s.cursor = some b →
      b ≠ 0x7E#8 → s.mem.work.length + 1 ≤ fmax s.pmax →
      step s = .next { s with cursor := s.cursor + 1, mem := { s.mem with work := s.mem.work ++ [b] } })

/-- An escape pair taken as one symbol in `ReadingBody` appends its data byte and moves the cursor by two; the
canonical pairs give the four reserved bytes. A marker followed by `FLAG` is no pair there: the body ends with the
marker open. The byte-serial machine is the spec's own decision D14; that it takes a pair as one symbol, and that `acc`
absorbs no byte before `ExpectEnd`, is the model's choice (log entries 5 and 19). -/
def Obligations.EscapePairsFillTheBody : Prop :=
  ∀ s : State, s.active = .decoding → s.dstate = .readingBody → s.esc = false →
    s.mem.work.length + 1 ≤ fmax s.pmax →
    exec .escPairFlag s = .next { s with
      cursor := s.cursor + 2, mem := { s.mem with work := s.mem.work ++ [0x7E#8] } } ∧
    exec .escPairEsc s = .next { s with
      cursor := s.cursor + 2, mem := { s.mem with work := s.mem.work ++ [0x7D#8] } } ∧
    exec .escPairXon s = .next { s with
      cursor := s.cursor + 2, mem := { s.mem with work := s.mem.work ++ [0x11#8] } } ∧
    exec .escPairXoff s = .next { s with
      cursor := s.cursor + 2, mem := { s.mem with work := s.mem.work ++ [0x13#8] } } ∧
    (∀ v : Byte, v ≠ 0x7E#8 →
      exec (.escPair v) s = .next { s with
        cursor := s.cursor + 2, mem := { s.mem with work := s.mem.work ++ [v ^^^ 0x20#8] } }) ∧
    exec (.escPair 0x7E#8) s = .next { s with
      esc := true, cursor := s.cursor + 1, dstate := .failed, outcome := some (.error .truncatedEscape) }

/-- The Unstuffer on its own, wherever no DECODE is in progress (in a stand-alone run the cursor moves too): it knows
no delimiter (the spec's own decision D23), so `0x7E` is a literal or an operand like any other byte. What a unit
returns stands in a field of the model's own (log entries 6 and 10). -/
def Obligations.UnstufferAlone : Prop :=
  ∀ (s : State) (n : Nat),
    (s.active = .unstuffing ∧ n = 1) ∨
      (s.active ≠ .unstuffing ∧ s.active ≠ .decoding ∧ s.active ≠ .stagedDecoding ∧ n = 0) →
    (s.esc = false →
      exec .rxEsc s = .next { s with esc := true, cursor := s.cursor + n } ∧
      (∀ b : Byte, (Instr.rxLiteral b).wf = true →
        exec (.rxLiteral b) s = .next { s with emitted := s.emitted ++ [b], cursor := s.cursor + n }) ∧
      (∀ i ∈ [Instr.rxStart, .rxStop],
        exec i s = .next { s with emitted := s.emitted ++ [0x7E#8], cursor := s.cursor + n }) ∧
      (∀ p ∈ [(Instr.escPairFlag, 0x7E#8), (.escPairEsc, 0x7D#8), (.escPairXon, 0x11#8), (.escPairXoff, 0x13#8)],
        exec p.1 s = .next { s with emitted := s.emitted ++ [p.2], cursor := s.cursor + 2 * n }) ∧
      (∀ v : Byte,
        exec (.escPair v) s = .next { s with emitted := s.emitted ++ [v ^^^ 0x20#8], cursor := s.cursor + 2 * n })) ∧
    (s.esc = true → ∀ v : Byte,
      exec (.rxOperand v) s = .next { s with
        esc := false, emitted := s.emitted ++ [v ^^^ 0x20#8], cursor := s.cursor + n })

/-- After the terminating delimiter, and after the end of the operation, received bytes have no effect at all. That
bytes after the delimiter are ignored is the spec's own decision D9, the byte-serial machine its decision D14; the
decoder presents no symbol in these states, so what one does there is the model's choice (log entry 10). -/
def Obligations.ClosedDecoderReadsNothing : Prop :=
  ∀ (s : State) (i : Instr) (b : Byte), s.active = .decoding ∨ s.active = .stagedDecoding →
    s.dstate = .expectEnd ∨ s.dstate = .done ∨ s.dstate = .failed →
    i ∈ [Instr.rxStart, .rxStop, .rxEsc, .rxLiteral b, .rxOperand b, .escPair b, .escPairFlag, .escPairEsc,
      .escPairXon, .escPairXoff] →
    exec i s = .next s

/-- The frame of the ten receive symbols, in every state: the transmit side's registers, the parameter and the
caller's side stay; `IN` and `OUT` read as before at every index, and `W` at every index below its old length, which
is where a byte is stored; the outcome changes only where the Decoder fails. The byte-serial machine is the spec's own
decision D14; that no received byte enters `acc` before `ExpectEnd` is the model's choice (log entry 19). -/
def Obligations.ReceiveFrame : Prop :=
  ∀ (s t : State) (i : Instr) (b : Byte),
    i ∈ [Instr.rxStart, .rxStop, .rxEsc, .rxLiteral b, .rxOperand b, .escPair b, .escPairFlag, .escPairEsc,
      .escPairXon, .escPairXoff] →
    exec i s = .next t →
    t.pmax = s.pmax ∧ t.acc = s.acc ∧ t.tstate = s.tstate ∧ t.active = s.active ∧ t.pairs = s.pairs ∧
    t.operand = s.operand ∧ t.unitOut = s.unitOut ∧ t.pending = s.pending ∧ t.resetReq = s.resetReq ∧
    (∀ k, bufRead t.mem.input k = bufRead s.mem.input k) ∧
    (∀ k, bufRead t.mem.output k = bufRead s.mem.output k) ∧
    (∀ k, k < s.mem.work.length → bufRead t.mem.work k = bufRead s.mem.work k) ∧
    (t.mem.work ≠ s.mem.work →
      (s.active = .decoding ∨ s.active = .stagedDecoding) ∧ s.dstate = .readingBody) ∧
    (t.emitted ≠ s.emitted → s.active ≠ .decoding ∧ s.active ≠ .stagedDecoding) ∧
    (t.esc ≠ s.esc → s.active ≠ .stagedDecoding) ∧
    (t.dstate ≠ s.dstate → s.active = .decoding ∨ s.active = .stagedDecoding) ∧
    (t.outcome ≠ s.outcome → t.dstate = .failed ∧ (s.active = .decoding ∨ s.active = .stagedDecoding))

/-! ## The step -/

/-- A STEP RUNS THE DECODED INSTRUCTION: where the state presents bytes and they decode to `i`, the step is `exec i`;
a request has then left the caller's list, and a byte is consumed by its instruction. The caller's list is the model's
choice (log entry 7). -/
def Obligations.StepRunsTheDecodedInstruction : Prop :=
  ∀ (s : State) (c : Ctx) (bs rest : List Byte) (i : Instr), s.resetReq = false → s.window = some (c, bs) →
    decode c bs = .ok (i, rest) →
    step s = exec i (if s.active = .idle then { s with pending := s.pending.tail } else s)

/-- Which instruction a step runs in each context, said without the decoder's contexts: requests; the Stuffer's input in
the framer and on its own; the checksum byte; the start delimiter and the terminating one; body bytes and the
Unstuffer's own input, with and without an escape pending, byte by byte and pair by pair, a marker with no operand after
it among them. The byte-serial machine is the spec's own decision D14; the caller's list, pairs as one symbol and units
on their own are the model's choice (log entries 5, 6 and 7). -/
def Obligations.StepTakesTheNextSymbol : Prop :=
  ∀ s : State, s.resetReq = false →
    (∀ x q, s.active = .idle → s.pending = .request 0#1 x :: q → step s = exec (.encode x) { s with pending := q }) ∧
    (∀ x q, s.active = .idle → s.pending = .request 1#1 x :: q → step s = exec (.decode x) { s with pending := q }) ∧
    (∀ x q, s.active = .idle → s.pending = .unit .checksum x :: q →
      step s = exec (.checksum x) { s with pending := q }) ∧
    (∀ x q, s.active = .idle → s.pending = .unit .stuff x :: q → step s = exec (.stuff x) { s with pending := q }) ∧
    (∀ x q, s.active = .idle → s.pending = .unit .unstuff x :: q →
      step s = exec (.unstuff x) { s with pending := q }) ∧
    (∀ x q, s.active = .idle → s.pending = .frame x :: q → step s = exec (.frame x) { s with pending := q }) ∧
    (∀ d, s.active = .encoding → s.tstate = .data → bufRead s.mem.input s.cursor = some d →
      step s = exec (txClass d) s) ∧
    (s.active = .encoding → s.tstate = .cksum → step s = exec (txClass (not8 s.acc)) s) ∧
    (∀ d, s.active = .stuffing → bufRead s.operand s.cursor = some d → step s = exec (txClass d) s) ∧
    (s.active = .decoding ∨ s.active = .stagedDecoding → bufRead s.mem.input s.cursor = some 0x7E#8 →
      (s.dstate = .expectStart → step s = exec .rxStart s) ∧ (s.dstate = .readingBody → step s = exec .rxStop s)) ∧
    (s.active = .decoding → s.dstate = .readingBody → s.esc = false → bufRead s.mem.input s.cursor = some 0x7D#8 →
      s.pairs = false ∨ bufRead s.mem.input (s.cursor + 1) = none ∨
        bufRead s.mem.input (s.cursor + 1) = some 0x7E#8 →
      step s = exec .rxEsc s) ∧
    (∀ b, s.active = .decoding → s.dstate = .readingBody → s.esc = false →
      bufRead s.mem.input s.cursor = some b → b ≠ 0x7E#8 → b ≠ 0x7D#8 → step s = exec (.rxLiteral b) s) ∧
    (∀ v, s.active = .decoding → s.dstate = .readingBody → s.esc = true →
      bufRead s.mem.input s.cursor = some v → v ≠ 0x7E#8 → step s = exec (.rxOperand v) s) ∧
    (∀ v, s.active = .decoding → s.dstate = .readingBody → s.esc = false → s.pairs = true →
      bufRead s.mem.input s.cursor = some 0x7D#8 → bufRead s.mem.input (s.cursor + 1) = some v → v ≠ 0x7E#8 →
      step s = exec (pairClass v) s) ∧
    (s.active = .unstuffing → s.esc = false → bufRead s.operand s.cursor = some 0x7D#8 →
      (s.pairs = false ∨ bufRead s.operand (s.cursor + 1) = none → step s = exec .rxEsc s) ∧
      (∀ v, s.pairs = true → bufRead s.operand (s.cursor + 1) = some v → step s = exec (pairClass v) s)) ∧
    (∀ b, s.active = .unstuffing → s.esc = false → bufRead s.operand s.cursor = some b → b ≠ 0x7D#8 →
      step s = exec (.rxLiteral b) s) ∧
    (∀ v, s.active = .unstuffing → s.esc = true → bufRead s.operand s.cursor = some v →
      step s = exec (.rxOperand v) s)

/-- An opcode-table word placed by `withFetchWord` is what the very next step runs, from every state; where a word is
placed, and that a request's selector is a byte, is the model's choice (log entries 9, 16 and 17). -/
def Obligations.PlacedWordRunsNext : Prop :=
  ∀ (s : State) (nbits w : Nat) (i : Instr), decodeTableWord nbits w = some i →
    step (s.withFetchWord nbits w) = exec i (s.withFetchWord nbits w).consume

/-- No start delimiter, and no byte left in the body, are errors the step records: `MissingStartDelimiter` for any
other byte or none in `ExpectStart`, `UnterminatedFrame` whether or not an escape is pending. That an empty input has no
start delimiter is the spec's own decision D8, the byte-serial machine its decision D14. -/
def Obligations.MissingDelimitersAreErrors : Prop :=
  ∀ s : State, s.resetReq = false → s.active = .decoding ∨ s.active = .stagedDecoding →
    (s.dstate = .expectStart → bufRead s.mem.input s.cursor ≠ some 0x7E#8 →
      step s = .next { s with dstate := .failed, outcome := some (.error .missingStartDelimiter) }) ∧
    (s.dstate = .readingBody → bufRead s.mem.input s.cursor = none →
      step s = .next { s with dstate := .failed, outcome := some (.error .unterminatedFrame) })

/-- The request rows of the two byte-serial tables and of R121: over-long inputs end in `CapacityExceeded`; others start
from the initial working state with the input in `IN`. That DECODE's capacity check comes first and covers the whole
input is the spec's own decision D7, the byte-serial machine its decision D14; that a command says which machine serves
the request is the model's choice (log entry 7). -/
def Obligations.SerialRequestRows : Prop :=
  ∀ (s : State) (pairs : Bool) (inp : List Byte) (q : List Command), s.resetReq = false → s.active = .idle →
    (s.pending = .serial 0#1 pairs inp :: q →
      (s.pmax < inp.length →
        step s = .next (({ s with pending := q } : State).deliver (.error .capacityExceeded))) ∧
      (inp.length ≤ s.pmax →
        step s = .next { ({ s with pending := q } : State).begin with
          active := .encoding, mem := { input := inp, work := [], output := [] } })) ∧
    (∀ a p, (s.pending = .serial 1#1 pairs inp :: q ∧ a = .decoding ∧ p = pairs) ∨
        (s.pending = .staged inp :: q ∧ a = .stagedDecoding ∧ p = false) →
      (fmax s.pmax < inp.length →
        step s = .next { ({ s with pending := q } : State).begin with
          active := a, pairs := p, dstate := .failed, outcome := some (.error .capacityExceeded) }) ∧
      (inp.length ≤ fmax s.pmax →
        step s = .next { ({ s with pending := q } : State).begin with
          active := a, pairs := p, mem := { input := inp, work := [], output := [] } }))

/-- The framer rows that read no payload byte. The byte-serial machine is the spec's own decision D14. -/
def Obligations.FramerRows : Prop :=
  ∀ s : State, s.resetReq = false → s.active = .encoding →
    (s.tstate = .start → s.mem.output.length < fmax s.pmax →
      step s = .next { s with tstate := .data, mem := { s.mem with output := s.mem.output ++ [0x7E#8] } }) ∧
    (s.tstate = .data → s.cursor = s.mem.input.length → step s = .next { s with tstate := .cksum }) ∧
    (s.tstate = .stop → s.mem.output.length < fmax s.pmax →
      step s = .next { s with tstate := .done, mem := { s.mem with output := s.mem.output ++ [0x7E#8] } }) ∧
    (s.tstate = .done → step s = .next (s.deliver (.ok s.mem.output)))

/-- The `ExpectEnd` rows: the deframer's three, and the four of R121's machine, which unstuffs the body first and tries
them in the order written; the payload is summed in `acc`, whose complement is compared with the last byte (R12); and
the end of the operation from `Done` and `Failed`: idle, in the initial working state, the outcome delivered. Which byte of a mismatch is `expected` and which `actual` is the spec's own decision D11, that
`ExpectEnd` is the phase of the checks its decision D10, the byte-serial machine its decision D14; that the payload goes
to `OUT` here, and what UNSTUFF returns to a `W` that its start empties, is the model's reading of R18 and R33 (log
entry 18), that `acc` is cleared and absorbs the payload here and that the end from `Done` and `Failed` is a step its
choice (log entries 19 and 4). -/
def Obligations.DeframerEndRows : Prop :=
  ∀ s : State, s.resetReq = false →
    (s.active = .decoding → s.dstate = .expectEnd →
      (s.mem.work = [] →
        step s = .next { s with dstate := .failed, outcome := some (.error .emptyBody) }) ∧
      (∀ p a, s.mem.work = p ++ [a] → checksum p ≠ a →
        step s = .next { s with
          acc := absorbAll 0x00#8 p, dstate := .failed,
          outcome := some (.error (.checksumMismatch (not8 (absorbAll 0x00#8 p)) a)) }) ∧
      (∀ p, s.mem.work = p ++ [checksum p] → s.mem.output.length + p.length ≤ fmax s.pmax →
        step s = .next { s with
          acc := absorbAll 0x00#8 p, dstate := .done, outcome := some (.ok p),
          mem := { s.mem with output := s.mem.output ++ p } })) ∧
    (s.active = .stagedDecoding → s.dstate = .expectEnd →
      (unstuff s.mem.work = .error .truncatedEscape → (takeAll false s.mem.work).2.length ≤ fmax s.pmax →
        step s = .next { s with
          esc := true, dstate := .failed, outcome := some (.error .truncatedEscape),
          mem := { s.mem with work := (takeAll false s.mem.work).2 } }) ∧
      (unstuff s.mem.work = .ok [] →
        step s = .next { s with
          esc := false, dstate := .failed, outcome := some (.error .emptyBody),
          mem := { s.mem with work := [] } }) ∧
      (∀ p a, unstuff s.mem.work = .ok (p ++ [a]) → checksum p ≠ a → p.length + 1 ≤ fmax s.pmax →
        step s = .next { s with
          acc := absorbAll 0x00#8 p, esc := false, dstate := .failed,
          outcome := some (.error (.checksumMismatch (not8 (absorbAll 0x00#8 p)) a)),
          mem := { s.mem with work := p ++ [a] } }) ∧
      (∀ p, unstuff s.mem.work = .ok (p ++ [checksum p]) → p.length + 1 ≤ fmax s.pmax →
        s.mem.output.length + p.length ≤ fmax s.pmax →
        step s = .next { s with
          acc := absorbAll 0x00#8 p, esc := false, dstate := .done, outcome := some (.ok p),
          mem := { s.mem with work := p ++ [checksum p], output := s.mem.output ++ p } })) ∧
    (s.active = .decoding ∨ s.active = .stagedDecoding → s.dstate = .done ∨ s.dstate = .failed →
      ∃ t, step s = .next t ∧ t.active = .idle ∧ t.workingInitial ∧ t.outcome = s.outcome ∧
        t.pending = s.pending ∧ t.pmax = s.pmax)

/-- No input leads to a fault, a stuck state or a refusal: from every state whatever the step answers a next state;
and ENCODE and DECODE are total: on an idle instance they end in an outcome, `Ok` or an error alike, with the block
idle and ready (R175). -/
def Obligations.ErrorsAreOrdinaryOutcomes : Prop :=
  (∀ s : State, ∃ t, step s = .next t) ∧
  (∀ (x : List Byte) (s : State), s.active = .idle →
    (∃ r, exec (.encode x) s = .next (s.deliver r) ∧ (s.deliver r).active = .idle ∧ (s.deliver r).workingInitial) ∧
    (∃ r, exec (.decode x) s = .next (s.deliver r) ∧ (s.deliver r).active = .idle ∧ (s.deliver r).workingInitial))

/-- An idle instance with nothing requested stays as it is; no step writes the parameter; the caller's list only ever
loses its first request, and only on an idle instance. The caller's list is the model's choice (log entry 7). -/
def Obligations.StepKeepsParameterAndRequests : Prop :=
  (∀ s : State, s.resetReq = false → s.active = .idle → s.pending = [] → step s = .next s) ∧
  (∀ s t : State, step s = .next t → t.pmax = s.pmax ∧
    (t.pending = s.pending ∨ (s.active = .idle ∧ t.pending = s.pending.tail)))

/-! ## Reset -/

/-- After reset every working register and buffer is at R20's value, the instance is idle and no outcome exists. Reset
is the spec's own decision D13; the values of the model's own fields are its choice (log entries 5 to 8). -/
def Obligations.ResetLeavesInitialState : Prop :=
  State.reset.workingInitial ∧ State.reset.active = .idle ∧ State.reset.outcome = none ∧
  State.reset.unitOut = none ∧ State.reset.pending = [] ∧ State.reset.resetReq = false

/-- Reset asserted in any state, also in the middle of an operation: every working register at R20's value, idle, no
outcome (the spec's own decision D13). That the caller's list stays and that the request for reset is then gone is the
model's choice (log entry 8), that nothing is handed over too (log entry 6). -/
def Obligations.ResetAbandonsTheOperation : Prop :=
  ∀ s : State, s.resetReq = true →
    ∃ t, step s = .next t ∧ t.workingInitial ∧ t.active = .idle ∧ t.outcome = none ∧ t.unitOut = none ∧
      t.resetReq = false ∧ t.pmax = s.pmax ∧ t.pending = s.pending

/-! ## Invariants -/

/-- The invariant holds after reset; it names the model's own fields at the values the model chose (log entries 5 and 6).
-/
def Obligations.InvariantHoldsAtReset : Prop := State.reset.Inv

/-- EVERY STEP KEEPS THE INVARIANT: the buffers stay within `FMAX`, an idle instance is in the initial working state,
and the working state of an operation in progress is what the bytes consumed so far make it. The byte-serial machine
is the spec's own decision D14; what `W` and `OUT` hold in each phase is the model's reading of R18 (log entry 18), that
DECODE's `acc` sums the payload in `ExpectEnd` its choice (log entry 19). -/
def Obligations.EveryStepKeepsTheInvariant : Prop :=
  ∀ s t : State, s.Inv → step s = .next t → t.Inv

/-- Under the invariant no push overflows: every buffer is within `FMAX`; the framer's `OUT` is within `2n + 4` bytes,
and its `OUT` and `W` have room for the row that comes next; DECODE's `W` holds at most `FMAX - 1` bytes while the body
is read and at most `FMAX - 2` in `ExpectEnd`, where what UNSTUFF returns of it fits `W` and `OUT` has room for the
payload. The byte-serial machine is the spec's own decision D14; which buffers the framer and `ExpectEnd` push to is the
model's reading of R18 (log entry 18). -/
def Obligations.NoPushEverOverflows : Prop :=
  ∀ s : State, s.Inv →
    (s.mem.input.length ≤ fmax s.pmax ∧ s.mem.work.length ≤ fmax s.pmax ∧ s.mem.output.length ≤ fmax s.pmax) ∧
    (s.active = .encoding →
      s.mem.output.length ≤ 2 * s.mem.input.length + 4 ∧
      (s.tstate = .start ∨ s.tstate = .stop → s.mem.output.length + 1 ≤ fmax s.pmax) ∧
      (∀ d, s.tstate = .data → bufRead s.mem.input s.cursor = some d →
        s.mem.work.length + 1 ≤ fmax s.pmax ∧ s.mem.output.length + (emit d).length ≤ fmax s.pmax) ∧
      (s.tstate = .cksum →
        s.mem.work.length + 1 ≤ fmax s.pmax ∧ s.mem.output.length + (emit (not8 s.acc)).length ≤ fmax s.pmax)) ∧
    (s.active = .decoding ∨ s.active = .stagedDecoding →
      (s.dstate = .readingBody → s.mem.work.length + 1 ≤ fmax s.pmax) ∧
      (s.dstate = .expectEnd → s.mem.work.length + 2 ≤ fmax s.pmax ∧
        (takeAll false s.mem.work).2.length ≤ fmax s.pmax ∧
        ∀ p a, s.mem.work = p ++ [a] ∨ unstuff s.mem.work = .ok (p ++ [a]) →
          s.mem.output.length + p.length ≤ fmax s.pmax))

/-- The outcome is written once, at the end of the operation and never before: under the invariant, while an operation
is in progress and has not ended, no outcome exists, and a step that gives one ends the operation; in `Done` and
`Failed` it is there, and the step from them leaves it as it is. The byte-serial machine is the spec's own decision
D14; that there is such a step, with the instance busy until it, is the model's choice (log entry 4). -/
def Obligations.OutcomeIsWrittenAtTheEnd : Prop :=
  ∀ s t : State, s.Inv → s.resetReq = false → step s = .next t →
    ((s.active = .encoding ∨
        ((s.active = .decoding ∨ s.active = .stagedDecoding) ∧ s.dstate ≠ .done ∧ s.dstate ≠ .failed)) →
      s.outcome = none ∧ (t.outcome.isSome = true → t.active = .idle ∨ t.dstate = .done ∨ t.dstate = .failed)) ∧
    ((s.active = .decoding ∨ s.active = .stagedDecoding) → s.dstate = .done ∨ s.dstate = .failed →
      s.outcome.isSome = true ∧ t.outcome = s.outcome ∧ t.active = .idle)

/-! ## The byte-serial machines compute the operations -/

/-- THE FRAMER COMPUTES ENCODE (the byte-serial machines are the spec's own construction, D14): from an accepted
request it takes `n + 4` transitions to T_DONE with the frame in `OUT` and the payload with its checksum byte in `W` (the
model's reading of R18, log entry 18), and one more to deliver it; an over-long payload is answered at the request. -/
def Obligations.FramerComputesEncode : Prop :=
  ∀ (s : State) (pairs : Bool) (p : List Byte) (q : List Command), s.resetReq = false → s.active = .idle →
    s.pending = .serial 0#1 pairs p :: q →
    (p.length ≤ s.pmax →
      (∃ t, Host.Core.run core (1 + (p.length + 4)) s = .next t ∧ t.active = .encoding ∧ t.tstate = .done ∧
        t.mem.output = frameOf p ∧ t.mem.output.length ≤ fmax s.pmax ∧ t.mem.work = p ++ [checksum p]) ∧
      Host.Core.run core (1 + (p.length + 4) + 1) s =
        .next (({ s with pending := q } : State).deliver (encodeFrame s.pmax p))) ∧
    (s.pmax < p.length →
      Host.Core.run core 1 s = .next (({ s with pending := q } : State).deliver (encodeFrame s.pmax p)))

/-- THE DEFRAMER COMPUTES DECODE, and so does the state machine of R121: on every input, byte by byte or taking an escape
pair as one symbol (the model's choice, log entry 5), it ends within `L + 4` steps with DECODE's outcome, idle, nothing
retained. The byte-serial machine is the spec's own decision D14; that a command says which machine serves the request
is the model's choice (log entry 7), and that the end of the operation is a step of its own (log entry 4). -/
def Obligations.DeframerComputesDecode : Prop :=
  ∀ (s : State) (pairs : Bool) (inp : List Byte) (q : List Command), s.resetReq = false → s.active = .idle →
    s.pending = .serial 1#1 pairs inp :: q ∨ s.pending = .staged inp :: q →
    ∃ k, k ≤ inp.length + 4 ∧
      Host.Core.run core k s = .next (({ s with pending := q } : State).deliver (decodeFrame s.pmax inp))

/-- THE LEAF MACHINES COMPUTE THE LEAF FUNCTIONS: the Checksum unit, the Stuffer and the Unstuffer on their own, byte
by byte, hand over what CHECKSUM, STUFF and UNSTUFF give, the Unstuffer's failure included. The byte-serial machine is
the spec's own decision D14; where the result stands, and that a unit is asked to run on its own, is the model's choice
(log entries 6 and 7). -/
def Obligations.LeafMachinesComputeLeafFunctions : Prop :=
  ∀ (s : State) (pairs : Bool) (x : List Byte) (q : List Command), s.resetReq = false → s.active = .idle →
    (s.pending = .unitSerial .checksum pairs x :: q →
      Host.Core.run core (x.length + 2) s =
        .next (({ s with pending := q } : State).handOver (.byte (checksum x)))) ∧
    (s.pending = .unitSerial .stuff pairs x :: q →
      Host.Core.run core (x.length + 2) s =
        .next (({ s with pending := q } : State).handOver (.bytes (stuff x)))) ∧
    (s.pending = .unitSerial .unstuff pairs x :: q →
      ∃ k, k ≤ x.length + 2 ∧ Host.Core.run core k s =
        .next (({ s with pending := q } : State).handOver (unstuff x).toUnit))
end

