-- ==== Sys2Proof/Laws/Decode.lean ====
section
/-! SUPPORT. The decoder context by context, so that no proof unfolds it. -/

namespace Sys2Proof

open Sys2Proof.Machine

@[simp] theorem decode_tx (d : Byte) (rest : List Byte) : decode .tx (d :: rest) = .ok (txClass d, rest) := rfl

@[simp] theorem decode_rxStart_nil : decode .rxStart [] = .error .missingStart := rfl

@[simp] theorem decode_rxStart_flag (rest : List Byte) : decode .rxStart (FLAG :: rest) = .ok (.rxStart, rest) := rfl

theorem decode_rxStart_other {b : Byte} (h : b ≠ FLAG) (rest : List Byte) :
    decode .rxStart (b :: rest) = .error .missingStart := by
  simp [decode, h]

@[simp] theorem decode_rxBody_nil : decode .rxBody [] = .error .noStop := rfl

@[simp] theorem decode_rxBody (b : Byte) (rest : List Byte) :
    decode .rxBody (b :: rest) = .ok (rxBodyClass b, rest) := rfl

@[simp] theorem decode_rxPairs_nil : decode .rxPairs [] = .error .noStop := rfl

@[simp] theorem decode_rxPairs (b : Byte) (rest : List Byte) :
    decode .rxPairs (b :: rest) =
      .ok ((pairFirst b (operandInBody rest) (rxBodyClass b)).1,
        (b :: rest).drop (pairFirst b (operandInBody rest) (rxBodyClass b)).2) := rfl

@[simp] theorem decode_rxEscaped_nil : decode .rxEscaped [] = .error .noStop := rfl

@[simp] theorem decode_rxEscaped (b : Byte) (rest : List Byte) :
    decode .rxEscaped (b :: rest) = .ok (rxEscapedClass b, rest) := rfl

@[simp] theorem decode_unstuff (b : Byte) (rest : List Byte) :
    decode .unstuff (b :: rest) = .ok (rxClass b, rest) := rfl

@[simp] theorem decode_unstuffPairs (b : Byte) (rest : List Byte) :
    decode .unstuffPairs (b :: rest) =
      .ok ((pairFirst b rest.head? (rxClass b)).1, (b :: rest).drop (pairFirst b rest.head? (rxClass b)).2) := rfl

@[simp] theorem decode_unstuffOperand (v : Byte) (rest : List Byte) :
    decode .unstuffOperand (v :: rest) = .ok (.rxOperand v, rest) := rfl

@[simp] theorem decode_pair (v : Byte) (rest : List Byte) :
    decode .pair (ESC :: v :: rest) = .ok (pairClass v, rest) := rfl

/-- A 1-bit selector is never a bad selector byte (R58). -/
theorem decode_request_selector (op : BitVec 1) (inp : List Byte) :
    decode .request (selectorByte op :: inp) =
      if op = 0#1 then .ok (.encode inp, []) else .ok (.decode inp, []) := by
  have h : op = 0#1 ∨ op = 1#1 := by revert op; decide
  rcases h with rfl | rfl <;> rfl

/-- `pairFirst` gives the whole pair exactly for a marker whose operand is there. -/
theorem pairFirst_pair (v : Byte) (other : Instr) : pairFirst ESC (some v) other = (pairClass v, 2) := rfl

theorem pairFirst_none (b : Byte) (other : Instr) : pairFirst b none other = (other, 1) := rfl

theorem pairFirst_other {b : Byte} (h : b ≠ ESC) (next : Option Byte) (other : Instr) :
    pairFirst b next other = (other, 1) := by
  cases next <;> simp [pairFirst, h]

end Sys2Proof
end

