-- ==== Sys2Proof/Laws/State.lean ====
section
/-! SUPPORT. One lemma per field per named update of the state, so that no proof unfolds a record update. -/

namespace Sys2Proof.Machine

/-! ## toIdle -/

@[simp] theorem State.toIdle_pmax (s : State) : s.toIdle.pmax = s.pmax := rfl
@[simp] theorem State.toIdle_acc (s : State) : s.toIdle.acc = 0x00#8 := rfl
@[simp] theorem State.toIdle_esc (s : State) : s.toIdle.esc = false := rfl
@[simp] theorem State.toIdle_dstate (s : State) : s.toIdle.dstate = .expectStart := rfl
@[simp] theorem State.toIdle_tstate (s : State) : s.toIdle.tstate = .start := rfl
@[simp] theorem State.toIdle_cursor (s : State) : s.toIdle.cursor = 0 := rfl
@[simp] theorem State.toIdle_mem (s : State) : s.toIdle.mem = { input := [], work := [], output := [] } := rfl
@[simp] theorem State.toIdle_outcome (s : State) : s.toIdle.outcome = s.outcome := rfl
@[simp] theorem State.toIdle_active (s : State) : s.toIdle.active = .idle := rfl
@[simp] theorem State.toIdle_pairs (s : State) : s.toIdle.pairs = false := rfl
@[simp] theorem State.toIdle_operand (s : State) : s.toIdle.operand = [] := rfl
@[simp] theorem State.toIdle_emitted (s : State) : s.toIdle.emitted = [] := rfl
@[simp] theorem State.toIdle_unitOut (s : State) : s.toIdle.unitOut = s.unitOut := rfl
@[simp] theorem State.toIdle_pending (s : State) : s.toIdle.pending = s.pending := rfl
@[simp] theorem State.toIdle_resetReq (s : State) : s.toIdle.resetReq = s.resetReq := rfl

/-! ## begin -/

@[simp] theorem State.begin_pmax (s : State) : s.begin.pmax = s.pmax := rfl
@[simp] theorem State.begin_acc (s : State) : s.begin.acc = 0x00#8 := rfl
@[simp] theorem State.begin_esc (s : State) : s.begin.esc = false := rfl
@[simp] theorem State.begin_dstate (s : State) : s.begin.dstate = .expectStart := rfl
@[simp] theorem State.begin_tstate (s : State) : s.begin.tstate = .start := rfl
@[simp] theorem State.begin_cursor (s : State) : s.begin.cursor = 0 := rfl
@[simp] theorem State.begin_mem (s : State) : s.begin.mem = { input := [], work := [], output := [] } := rfl
@[simp] theorem State.begin_outcome (s : State) : s.begin.outcome = none := rfl
@[simp] theorem State.begin_active (s : State) : s.begin.active = .idle := rfl
@[simp] theorem State.begin_pairs (s : State) : s.begin.pairs = false := rfl
@[simp] theorem State.begin_operand (s : State) : s.begin.operand = [] := rfl
@[simp] theorem State.begin_emitted (s : State) : s.begin.emitted = [] := rfl
@[simp] theorem State.begin_unitOut (s : State) : s.begin.unitOut = none := rfl
@[simp] theorem State.begin_pending (s : State) : s.begin.pending = s.pending := rfl
@[simp] theorem State.begin_resetReq (s : State) : s.begin.resetReq = s.resetReq := rfl

/-! ## deliver -/

@[simp] theorem State.deliver_pmax (s : State) (r : Result) : (s.deliver r).pmax = s.pmax := rfl
@[simp] theorem State.deliver_acc (s : State) (r : Result) : (s.deliver r).acc = 0x00#8 := rfl
@[simp] theorem State.deliver_esc (s : State) (r : Result) : (s.deliver r).esc = false := rfl
@[simp] theorem State.deliver_dstate (s : State) (r : Result) : (s.deliver r).dstate = .expectStart := rfl
@[simp] theorem State.deliver_tstate (s : State) (r : Result) : (s.deliver r).tstate = .start := rfl
@[simp] theorem State.deliver_cursor (s : State) (r : Result) : (s.deliver r).cursor = 0 := rfl
@[simp] theorem State.deliver_mem (s : State) (r : Result) : (s.deliver r).mem = { input := [], work := [], output := [] } := rfl
@[simp] theorem State.deliver_outcome (s : State) (r : Result) : (s.deliver r).outcome = some r := rfl
@[simp] theorem State.deliver_active (s : State) (r : Result) : (s.deliver r).active = .idle := rfl
@[simp] theorem State.deliver_pairs (s : State) (r : Result) : (s.deliver r).pairs = false := rfl
@[simp] theorem State.deliver_operand (s : State) (r : Result) : (s.deliver r).operand = [] := rfl
@[simp] theorem State.deliver_emitted (s : State) (r : Result) : (s.deliver r).emitted = [] := rfl
@[simp] theorem State.deliver_unitOut (s : State) (r : Result) : (s.deliver r).unitOut = none := rfl
@[simp] theorem State.deliver_pending (s : State) (r : Result) : (s.deliver r).pending = s.pending := rfl
@[simp] theorem State.deliver_resetReq (s : State) (r : Result) : (s.deliver r).resetReq = s.resetReq := rfl

/-! ## handOver -/

@[simp] theorem State.handOver_pmax (s : State) (u : UnitResult) : (s.handOver u).pmax = s.pmax := rfl
@[simp] theorem State.handOver_acc (s : State) (u : UnitResult) : (s.handOver u).acc = 0x00#8 := rfl
@[simp] theorem State.handOver_esc (s : State) (u : UnitResult) : (s.handOver u).esc = false := rfl
@[simp] theorem State.handOver_dstate (s : State) (u : UnitResult) : (s.handOver u).dstate = .expectStart := rfl
@[simp] theorem State.handOver_tstate (s : State) (u : UnitResult) : (s.handOver u).tstate = .start := rfl
@[simp] theorem State.handOver_cursor (s : State) (u : UnitResult) : (s.handOver u).cursor = 0 := rfl
@[simp] theorem State.handOver_mem (s : State) (u : UnitResult) : (s.handOver u).mem = { input := [], work := [], output := [] } := rfl
@[simp] theorem State.handOver_outcome (s : State) (u : UnitResult) : (s.handOver u).outcome = none := rfl
@[simp] theorem State.handOver_active (s : State) (u : UnitResult) : (s.handOver u).active = .idle := rfl
@[simp] theorem State.handOver_pairs (s : State) (u : UnitResult) : (s.handOver u).pairs = false := rfl
@[simp] theorem State.handOver_operand (s : State) (u : UnitResult) : (s.handOver u).operand = [] := rfl
@[simp] theorem State.handOver_emitted (s : State) (u : UnitResult) : (s.handOver u).emitted = [] := rfl
@[simp] theorem State.handOver_unitOut (s : State) (u : UnitResult) : (s.handOver u).unitOut = some u := rfl
@[simp] theorem State.handOver_pending (s : State) (u : UnitResult) : (s.handOver u).pending = s.pending := rfl
@[simp] theorem State.handOver_resetReq (s : State) (u : UnitResult) : (s.handOver u).resetReq = s.resetReq := rfl

/-! ## applyReset -/

@[simp] theorem State.applyReset_pmax (s : State) : s.applyReset.pmax = s.pmax := rfl
@[simp] theorem State.applyReset_acc (s : State) : s.applyReset.acc = 0x00#8 := rfl
@[simp] theorem State.applyReset_esc (s : State) : s.applyReset.esc = false := rfl
@[simp] theorem State.applyReset_dstate (s : State) : s.applyReset.dstate = .expectStart := rfl
@[simp] theorem State.applyReset_tstate (s : State) : s.applyReset.tstate = .start := rfl
@[simp] theorem State.applyReset_cursor (s : State) : s.applyReset.cursor = 0 := rfl
@[simp] theorem State.applyReset_mem (s : State) : s.applyReset.mem = { input := [], work := [], output := [] } := rfl
@[simp] theorem State.applyReset_outcome (s : State) : s.applyReset.outcome = none := rfl
@[simp] theorem State.applyReset_active (s : State) : s.applyReset.active = .idle := rfl
@[simp] theorem State.applyReset_pairs (s : State) : s.applyReset.pairs = false := rfl
@[simp] theorem State.applyReset_operand (s : State) : s.applyReset.operand = [] := rfl
@[simp] theorem State.applyReset_emitted (s : State) : s.applyReset.emitted = [] := rfl
@[simp] theorem State.applyReset_unitOut (s : State) : s.applyReset.unitOut = none := rfl
@[simp] theorem State.applyReset_pending (s : State) : s.applyReset.pending = s.pending := rfl
@[simp] theorem State.applyReset_resetReq (s : State) : s.applyReset.resetReq = false := rfl

/-! ## retire -/

@[simp] theorem State.retire_pmax (s : State) : s.retire.pmax = s.pmax := rfl
@[simp] theorem State.retire_acc (s : State) : s.retire.acc = 0x00#8 := rfl
@[simp] theorem State.retire_esc (s : State) : s.retire.esc = false := rfl
@[simp] theorem State.retire_dstate (s : State) : s.retire.dstate = .expectStart := rfl
@[simp] theorem State.retire_tstate (s : State) : s.retire.tstate = .start := rfl
@[simp] theorem State.retire_cursor (s : State) : s.retire.cursor = 0 := rfl
@[simp] theorem State.retire_mem (s : State) : s.retire.mem = { input := [], work := [], output := [] } := rfl
@[simp] theorem State.retire_outcome (s : State) : s.retire.outcome = s.outcome := rfl
@[simp] theorem State.retire_active (s : State) : s.retire.active = .idle := rfl
@[simp] theorem State.retire_pairs (s : State) : s.retire.pairs = false := rfl
@[simp] theorem State.retire_operand (s : State) : s.retire.operand = [] := rfl
@[simp] theorem State.retire_emitted (s : State) : s.retire.emitted = [] := rfl
@[simp] theorem State.retire_unitOut (s : State) : s.retire.unitOut = s.unitOut := rfl
@[simp] theorem State.retire_pending (s : State) : s.retire.pending = s.pending := rfl
@[simp] theorem State.retire_resetReq (s : State) : s.retire.resetReq = s.resetReq := rfl

/-! ## fail -/

@[simp] theorem State.fail_pmax (s : State) (k : ErrorKind) : (s.fail k).pmax = s.pmax := rfl
@[simp] theorem State.fail_acc (s : State) (k : ErrorKind) : (s.fail k).acc = s.acc := rfl
@[simp] theorem State.fail_esc (s : State) (k : ErrorKind) : (s.fail k).esc = s.esc := rfl
@[simp] theorem State.fail_dstate (s : State) (k : ErrorKind) : (s.fail k).dstate = .failed := rfl
@[simp] theorem State.fail_tstate (s : State) (k : ErrorKind) : (s.fail k).tstate = s.tstate := rfl
@[simp] theorem State.fail_cursor (s : State) (k : ErrorKind) : (s.fail k).cursor = s.cursor := rfl
@[simp] theorem State.fail_mem (s : State) (k : ErrorKind) : (s.fail k).mem = s.mem := rfl
@[simp] theorem State.fail_outcome (s : State) (k : ErrorKind) : (s.fail k).outcome = some (.error k) := rfl
@[simp] theorem State.fail_active (s : State) (k : ErrorKind) : (s.fail k).active = s.active := rfl
@[simp] theorem State.fail_pairs (s : State) (k : ErrorKind) : (s.fail k).pairs = s.pairs := rfl
@[simp] theorem State.fail_operand (s : State) (k : ErrorKind) : (s.fail k).operand = s.operand := rfl
@[simp] theorem State.fail_emitted (s : State) (k : ErrorKind) : (s.fail k).emitted = s.emitted := rfl
@[simp] theorem State.fail_unitOut (s : State) (k : ErrorKind) : (s.fail k).unitOut = s.unitOut := rfl
@[simp] theorem State.fail_pending (s : State) (k : ErrorKind) : (s.fail k).pending = s.pending := rfl
@[simp] theorem State.fail_resetReq (s : State) (k : ErrorKind) : (s.fail k).resetReq = s.resetReq := rfl

/-! ## absorb -/

@[simp] theorem State.absorb_pmax (s : State) (b : Byte) : (s.absorb b).pmax = s.pmax := rfl
@[simp] theorem State.absorb_acc (s : State) (b : Byte) : (s.absorb b).acc = s.acc + b := rfl
@[simp] theorem State.absorb_esc (s : State) (b : Byte) : (s.absorb b).esc = s.esc := rfl
@[simp] theorem State.absorb_dstate (s : State) (b : Byte) : (s.absorb b).dstate = s.dstate := rfl
@[simp] theorem State.absorb_tstate (s : State) (b : Byte) : (s.absorb b).tstate = s.tstate := rfl
@[simp] theorem State.absorb_cursor (s : State) (b : Byte) : (s.absorb b).cursor = s.cursor := rfl
@[simp] theorem State.absorb_mem (s : State) (b : Byte) : (s.absorb b).mem = s.mem := rfl
@[simp] theorem State.absorb_outcome (s : State) (b : Byte) : (s.absorb b).outcome = s.outcome := rfl
@[simp] theorem State.absorb_active (s : State) (b : Byte) : (s.absorb b).active = s.active := rfl
@[simp] theorem State.absorb_pairs (s : State) (b : Byte) : (s.absorb b).pairs = s.pairs := rfl
@[simp] theorem State.absorb_operand (s : State) (b : Byte) : (s.absorb b).operand = s.operand := rfl
@[simp] theorem State.absorb_emitted (s : State) (b : Byte) : (s.absorb b).emitted = s.emitted := rfl
@[simp] theorem State.absorb_unitOut (s : State) (b : Byte) : (s.absorb b).unitOut = s.unitOut := rfl
@[simp] theorem State.absorb_pending (s : State) (b : Byte) : (s.absorb b).pending = s.pending := rfl
@[simp] theorem State.absorb_resetReq (s : State) (b : Byte) : (s.absorb b).resetReq = s.resetReq := rfl

/-! ## sumOver -/

@[simp] theorem State.sumOver_pmax (bs : List Byte) (s : State) : (s.sumOver bs).pmax = s.pmax := rfl
@[simp] theorem State.sumOver_acc (bs : List Byte) (s : State) : (s.sumOver bs).acc = absorbAll 0x00#8 bs := rfl
@[simp] theorem State.sumOver_esc (bs : List Byte) (s : State) : (s.sumOver bs).esc = s.esc := rfl
@[simp] theorem State.sumOver_dstate (bs : List Byte) (s : State) : (s.sumOver bs).dstate = s.dstate := rfl
@[simp] theorem State.sumOver_tstate (bs : List Byte) (s : State) : (s.sumOver bs).tstate = s.tstate := rfl
@[simp] theorem State.sumOver_cursor (bs : List Byte) (s : State) : (s.sumOver bs).cursor = s.cursor := rfl
@[simp] theorem State.sumOver_mem (bs : List Byte) (s : State) : (s.sumOver bs).mem = s.mem := rfl
@[simp] theorem State.sumOver_outcome (bs : List Byte) (s : State) : (s.sumOver bs).outcome = s.outcome := rfl
@[simp] theorem State.sumOver_active (bs : List Byte) (s : State) : (s.sumOver bs).active = s.active := rfl
@[simp] theorem State.sumOver_pairs (bs : List Byte) (s : State) : (s.sumOver bs).pairs = s.pairs := rfl
@[simp] theorem State.sumOver_operand (bs : List Byte) (s : State) : (s.sumOver bs).operand = s.operand := rfl
@[simp] theorem State.sumOver_emitted (bs : List Byte) (s : State) : (s.sumOver bs).emitted = s.emitted := rfl
@[simp] theorem State.sumOver_unitOut (bs : List Byte) (s : State) : (s.sumOver bs).unitOut = s.unitOut := rfl
@[simp] theorem State.sumOver_pending (bs : List Byte) (s : State) : (s.sumOver bs).pending = s.pending := rfl
@[simp] theorem State.sumOver_resetReq (bs : List Byte) (s : State) : (s.sumOver bs).resetReq = s.resetReq := rfl

/-! ## advance -/

@[simp] theorem State.advance_pmax (s : State) : s.advance.pmax = s.pmax := rfl
@[simp] theorem State.advance_acc (s : State) : s.advance.acc = s.acc := rfl
@[simp] theorem State.advance_esc (s : State) : s.advance.esc = s.esc := rfl
@[simp] theorem State.advance_dstate (s : State) : s.advance.dstate = s.dstate := rfl
@[simp] theorem State.advance_tstate (s : State) : s.advance.tstate = s.tstate := rfl
@[simp] theorem State.advance_cursor (s : State) : s.advance.cursor = s.cursor + 1 := rfl
@[simp] theorem State.advance_mem (s : State) : s.advance.mem = s.mem := rfl
@[simp] theorem State.advance_outcome (s : State) : s.advance.outcome = s.outcome := rfl
@[simp] theorem State.advance_active (s : State) : s.advance.active = s.active := rfl
@[simp] theorem State.advance_pairs (s : State) : s.advance.pairs = s.pairs := rfl
@[simp] theorem State.advance_operand (s : State) : s.advance.operand = s.operand := rfl
@[simp] theorem State.advance_emitted (s : State) : s.advance.emitted = s.emitted := rfl
@[simp] theorem State.advance_unitOut (s : State) : s.advance.unitOut = s.unitOut := rfl
@[simp] theorem State.advance_pending (s : State) : s.advance.pending = s.pending := rfl
@[simp] theorem State.advance_resetReq (s : State) : s.advance.resetReq = s.resetReq := rfl

/-! ## emitAlone -/

@[simp] theorem State.emitAlone_pmax (s : State) (d : Byte) : (s.emitAlone d).pmax = s.pmax := rfl
@[simp] theorem State.emitAlone_acc (s : State) (d : Byte) : (s.emitAlone d).acc = s.acc := rfl
@[simp] theorem State.emitAlone_esc (s : State) (d : Byte) : (s.emitAlone d).esc = s.esc := rfl
@[simp] theorem State.emitAlone_dstate (s : State) (d : Byte) : (s.emitAlone d).dstate = s.dstate := rfl
@[simp] theorem State.emitAlone_tstate (s : State) (d : Byte) : (s.emitAlone d).tstate = s.tstate := rfl
@[simp] theorem State.emitAlone_cursor (s : State) (d : Byte) : (s.emitAlone d).cursor = s.cursor := rfl
@[simp] theorem State.emitAlone_mem (s : State) (d : Byte) : (s.emitAlone d).mem = s.mem := rfl
@[simp] theorem State.emitAlone_outcome (s : State) (d : Byte) : (s.emitAlone d).outcome = s.outcome := rfl
@[simp] theorem State.emitAlone_active (s : State) (d : Byte) : (s.emitAlone d).active = s.active := rfl
@[simp] theorem State.emitAlone_pairs (s : State) (d : Byte) : (s.emitAlone d).pairs = s.pairs := rfl
@[simp] theorem State.emitAlone_operand (s : State) (d : Byte) : (s.emitAlone d).operand = s.operand := rfl
@[simp] theorem State.emitAlone_emitted (s : State) (d : Byte) : (s.emitAlone d).emitted = s.emitted ++ emit d := rfl
@[simp] theorem State.emitAlone_unitOut (s : State) (d : Byte) : (s.emitAlone d).unitOut = s.unitOut := rfl
@[simp] theorem State.emitAlone_pending (s : State) (d : Byte) : (s.emitAlone d).pending = s.pending := rfl
@[simp] theorem State.emitAlone_resetReq (s : State) (d : Byte) : (s.emitAlone d).resetReq = s.resetReq := rfl

/-! ## takeAlone -/

@[simp] theorem State.takeAlone_pmax (s : State) (bs : List Byte) : (s.takeAlone bs).pmax = s.pmax := rfl
@[simp] theorem State.takeAlone_acc (s : State) (bs : List Byte) : (s.takeAlone bs).acc = s.acc := rfl
@[simp] theorem State.takeAlone_esc (s : State) (bs : List Byte) : (s.takeAlone bs).esc = (takeAll s.esc bs).1 := rfl
@[simp] theorem State.takeAlone_dstate (s : State) (bs : List Byte) : (s.takeAlone bs).dstate = s.dstate := rfl
@[simp] theorem State.takeAlone_tstate (s : State) (bs : List Byte) : (s.takeAlone bs).tstate = s.tstate := rfl
@[simp] theorem State.takeAlone_cursor (s : State) (bs : List Byte) : (s.takeAlone bs).cursor = s.cursor := rfl
@[simp] theorem State.takeAlone_mem (s : State) (bs : List Byte) : (s.takeAlone bs).mem = s.mem := rfl
@[simp] theorem State.takeAlone_outcome (s : State) (bs : List Byte) : (s.takeAlone bs).outcome = s.outcome := rfl
@[simp] theorem State.takeAlone_active (s : State) (bs : List Byte) : (s.takeAlone bs).active = s.active := rfl
@[simp] theorem State.takeAlone_pairs (s : State) (bs : List Byte) : (s.takeAlone bs).pairs = s.pairs := rfl
@[simp] theorem State.takeAlone_operand (s : State) (bs : List Byte) : (s.takeAlone bs).operand = s.operand := rfl
@[simp] theorem State.takeAlone_emitted (s : State) (bs : List Byte) : (s.takeAlone bs).emitted = s.emitted ++ (takeAll s.esc bs).2 := rfl
@[simp] theorem State.takeAlone_unitOut (s : State) (bs : List Byte) : (s.takeAlone bs).unitOut = s.unitOut := rfl
@[simp] theorem State.takeAlone_pending (s : State) (bs : List Byte) : (s.takeAlone bs).pending = s.pending := rfl
@[simp] theorem State.takeAlone_resetReq (s : State) (bs : List Byte) : (s.takeAlone bs).resetReq = s.resetReq := rfl

/-! ## startUnstuff -/

@[simp] theorem State.startUnstuff_pmax (s : State) : s.startUnstuff.pmax = s.pmax := rfl
@[simp] theorem State.startUnstuff_acc (s : State) : s.startUnstuff.acc = s.acc := rfl
@[simp] theorem State.startUnstuff_esc (s : State) : s.startUnstuff.esc = false := rfl
@[simp] theorem State.startUnstuff_dstate (s : State) : s.startUnstuff.dstate = s.dstate := rfl
@[simp] theorem State.startUnstuff_tstate (s : State) : s.startUnstuff.tstate = s.tstate := rfl
@[simp] theorem State.startUnstuff_cursor (s : State) : s.startUnstuff.cursor = s.cursor := rfl
@[simp] theorem State.startUnstuff_mem (s : State) : s.startUnstuff.mem = { s.mem with work := [] } := rfl
@[simp] theorem State.startUnstuff_outcome (s : State) : s.startUnstuff.outcome = s.outcome := rfl
@[simp] theorem State.startUnstuff_active (s : State) : s.startUnstuff.active = s.active := rfl
@[simp] theorem State.startUnstuff_pairs (s : State) : s.startUnstuff.pairs = s.pairs := rfl
@[simp] theorem State.startUnstuff_operand (s : State) : s.startUnstuff.operand = s.operand := rfl
@[simp] theorem State.startUnstuff_emitted (s : State) : s.startUnstuff.emitted = s.emitted := rfl
@[simp] theorem State.startUnstuff_unitOut (s : State) : s.startUnstuff.unitOut = s.unitOut := rfl
@[simp] theorem State.startUnstuff_pending (s : State) : s.startUnstuff.pending = s.pending := rfl
@[simp] theorem State.startUnstuff_resetReq (s : State) : s.startUnstuff.resetReq = s.resetReq := rfl

end Sys2Proof.Machine
end

