-- ==== Sys2Proof/Laws/Memory.lean ====
section
/-! SUPPORT. The bounded buffers (spec/20_memory.md R32, R33, R41): what a push does, and that every operation of the
machine keeps every buffer within its capacity. -/

namespace Sys2Proof.Machine

theorem bufPush_eq_some {cap : Nat} {buf : List Byte} {b : Byte} {buf' : List Byte} :
    bufPush cap buf b = some buf' ↔ buf.length < cap ∧ buf' = buf ++ [b] := by
  unfold bufPush
  split <;> simp_all [eq_comm]

/-- All of `bs` is appended where it fits, and only there. -/
theorem bufPushAll_eq_some {cap : Nat} {buf bs buf' : List Byte} :
    bufPushAll cap buf bs = some buf' ↔ (bs = [] ∨ buf.length + bs.length ≤ cap) ∧ buf' = buf ++ bs := by
  induction bs generalizing buf with
  | nil => simp [bufPushAll, eq_comm]
  | cons b rest ih =>
    unfold bufPushAll
    by_cases h : buf.length < cap
    · have hp : bufPush cap buf b = some (buf ++ [b]) := bufPush_eq_some.2 ⟨h, rfl⟩
      simp only [hp, ih, List.length_append, List.length_cons, List.length_nil, List.append_assoc,
        List.singleton_append, reduceCtorEq, false_or, Nat.zero_add]
      constructor
      · rintro ⟨h1 | h1, rfl⟩
        · subst h1
          exact ⟨by simp; omega, rfl⟩
        · exact ⟨by omega, rfl⟩
      · rintro ⟨h1, rfl⟩
        exact ⟨.inr (by omega), rfl⟩
    · have hp : bufPush cap buf b = none := by simp [bufPush, h]
      simp only [hp, reduceCtorEq, false_or, List.length_cons, false_iff, not_and]
      omega

/-- Bytes that fit are appended. -/
theorem bufPushAll_of_fits {cap : Nat} {buf bs : List Byte} (h : buf.length + bs.length ≤ cap) :
    bufPushAll cap buf bs = some (buf ++ bs) :=
  bufPushAll_eq_some.2 ⟨.inr h, rfl⟩

/-- Bytes that do not fit are not appended. -/
theorem bufPushAll_of_full {cap : Nat} {buf bs : List Byte} (hb : bs ≠ []) (h : cap < buf.length + bs.length) :
    bufPushAll cap buf bs = none := by
  rw [Option.eq_none_iff_forall_ne_some]
  intro out ho
  obtain ⟨h1 | h1, -⟩ := bufPushAll_eq_some.1 ho
  · exact hb h1
  · omega

/-- What was pushed is within the capacity if the buffer was. -/
theorem bufPushAll_length {cap : Nat} {buf bs buf' : List Byte} (h : bufPushAll cap buf bs = some buf')
    (hb : buf.length ≤ cap) : buf'.length ≤ cap := by
  obtain ⟨rfl | h1, rfl⟩ := bufPushAll_eq_some.1 h
  · simpa using hb
  · simpa using h1

theorem Memory.wf_iff {cap : Nat} {m : Memory} :
    m.wf cap = true ↔ m.input.length ≤ cap ∧ m.work.length ≤ cap ∧ m.output.length ≤ cap := by
  simp [Memory.wf, and_assoc]

theorem State.buffersFit_iff {s : State} :
    s.buffersFit ↔ s.mem.input.length ≤ fmax s.pmax ∧ s.mem.work.length ≤ fmax s.pmax ∧
      s.mem.output.length ≤ fmax s.pmax := Memory.wf_iff

theorem reset_buffersFit : State.reset.buffersFit := by
  simp [State.buffersFit_iff, State.reset]

@[simp] theorem State.toIdle_buffersFit (s : State) : s.toIdle.buffersFit := by
  simp [State.buffersFit_iff]

@[simp] theorem State.begin_buffersFit (s : State) : s.begin.buffersFit := by
  simp [State.buffersFit_iff]

@[simp] theorem State.deliver_buffersFit (r : Result) (s : State) : (s.deliver r).buffersFit := by
  simp [State.buffersFit_iff]

@[simp] theorem State.handOver_buffersFit (u : UnitResult) (s : State) : (s.handOver u).buffersFit := by
  simp [State.buffersFit_iff]

@[simp] theorem State.applyReset_buffersFit (s : State) : s.applyReset.buffersFit := by
  simp [State.buffersFit_iff]

/-- An update that leaves the parameter and the buffers alone keeps them within capacity. -/
theorem State.buffersFit_congr {s t : State} (hp : t.pmax = s.pmax) (hm : t.mem = s.mem) (h : s.buffersFit) :
    t.buffersFit := by
  unfold State.buffersFit at *
  rw [hp, hm]
  exact h

theorem State.pushOut_buffersFit {bs : List Byte} {k : State → State} {s : State} (h : s.buffersFit)
    (hk : ∀ t : State, t.buffersFit → (k t).buffersFit) : (s.pushOut bs k).buffersFit := by
  unfold State.pushOut
  split
  · next out ho =>
    refine hk _ ?_
    rw [State.buffersFit_iff] at h ⊢
    exact ⟨h.1, h.2.1, bufPushAll_length ho h.2.2⟩
  · exact State.deliver_buffersFit _ _

theorem State.pushData_buffersFit {d : Byte} {k : State → State} {s : State} (h : s.buffersFit)
    (hk : ∀ t : State, t.buffersFit → (k t).buffersFit) : (s.pushData d k).buffersFit := by
  unfold State.pushData
  split
  · next w hw =>
    refine State.pushOut_buffersFit ?_ hk
    obtain ⟨hl, rfl⟩ := bufPush_eq_some.1 hw
    rw [State.buffersFit_iff] at h ⊢
    exact ⟨h.1, by simpa using hl, h.2.2⟩
  · exact State.deliver_buffersFit _ _

theorem State.txByte_buffersFit {d : Byte} {s : State} (h : s.buffersFit) : (s.txByte d).buffersFit := by
  unfold State.txByte
  split
  · split
    · exact State.pushData_buffersFit h fun t ht => State.buffersFit_congr (by simp) (by simp) ht
    · exact State.pushData_buffersFit h fun t ht => State.buffersFit_congr rfl rfl ht
    all_goals exact State.buffersFit_congr rfl rfl h
  all_goals exact State.buffersFit_congr rfl rfl h

theorem State.deframe_buffersFit {b : Byte} {s : State} (h : s.buffersFit) : (s.deframe b).buffersFit := by
  unfold State.deframe
  split
  · split <;> exact State.buffersFit_congr rfl rfl h
  · split
    · split <;> exact State.buffersFit_congr rfl rfl h
    · split
      · next w hw =>
        rw [State.buffersFit_iff] at h ⊢
        exact ⟨h.1, bufPushAll_length hw h.2.1, h.2.2⟩
      · exact State.buffersFit_congr rfl rfl h
  all_goals exact h

theorem State.deframeAll_buffersFit {bs : List Byte} {s : State} (h : s.buffersFit) :
    (s.deframeAll bs).buffersFit := by
  induction bs generalizing s with
  | nil => exact h
  | cons b rest ih => exact ih (State.deframe_buffersFit h)

theorem State.collect_buffersFit {b : Byte} {s : State} (h : s.buffersFit) : (s.collect b).buffersFit := by
  unfold State.collect
  split
  · split <;> exact State.buffersFit_congr rfl rfl h
  · split
    · exact State.buffersFit_congr rfl rfl h
    · split
      · next w hw =>
        obtain ⟨hl, rfl⟩ := bufPush_eq_some.1 hw
        rw [State.buffersFit_iff] at h ⊢
        exact ⟨h.1, by simpa using hl, h.2.2⟩
      · exact State.buffersFit_congr rfl rfl h
  all_goals exact h

theorem State.collectAll_buffersFit {bs : List Byte} {s : State} (h : s.buffersFit) :
    (s.collectAll bs).buffersFit := by
  induction bs generalizing s with
  | nil => exact h
  | cons b rest ih => exact ih (State.collect_buffersFit h)

theorem State.rxBytes_buffersFit {bs : List Byte} {s : State} (h : s.buffersFit) : (s.rxBytes bs).buffersFit := by
  unfold State.rxBytes
  split
  · exact State.deframeAll_buffersFit h
  · exact State.collectAll_buffersFit h
  all_goals exact State.buffersFit_congr rfl rfl h

theorem State.beginDecode_buffersFit (a : Activity) (pairs : Bool) (inp : List Byte) (s : State) :
    (s.beginDecode a pairs inp).buffersFit := by
  unfold State.beginDecode
  split
  · exact State.buffersFit_congr rfl rfl (State.begin_buffersFit s)
  · rw [State.buffersFit_iff]
    simp only [State.begin_pmax, List.length_nil]
    omega

theorem State.beginSerial_buffersFit (op : BitVec 1) (pairs : Bool) (inp : List Byte) (s : State) :
    (s.beginSerial op pairs inp).buffersFit := by
  unfold State.beginSerial
  split
  · split
    · exact State.deliver_buffersFit _ _
    · rw [State.buffersFit_iff]
      simp only [State.begin_pmax, fmax, List.length_nil]
      omega
  · exact State.beginDecode_buffersFit _ _ _ _

theorem State.framerRow_buffersFit {s : State} (h : s.buffersFit) : s.framerRow.buffersFit := by
  unfold State.framerRow
  split
  · exact State.pushOut_buffersFit h fun t ht => State.buffersFit_congr rfl rfl ht
  · exact State.buffersFit_congr rfl rfl h
  · exact h
  · exact State.pushOut_buffersFit h fun t ht => State.buffersFit_congr rfl rfl ht
  · exact State.deliver_buffersFit _ _

theorem State.settle_buffersFit {s : State} (h : s.buffersFit) : s.settle.buffersFit := by
  unfold State.settle
  split
  · exact State.buffersFit_congr rfl rfl h
  · dsimp only
    split
    · split
      · next out ho =>
        rw [State.buffersFit_iff] at h ⊢
        exact ⟨h.1, h.2.1, bufPushAll_length ho h.2.2⟩
      · exact State.buffersFit_congr rfl rfl h
    · exact State.buffersFit_congr rfl rfl h

theorem State.deframerRow_buffersFit {s : State} (h : s.buffersFit) : s.deframerRow.buffersFit := by
  unfold State.deframerRow
  split
  · exact h
  · exact h
  · exact State.settle_buffersFit h
  all_goals exact State.toIdle_buffersFit s

/-- `take` emits at most one byte (R142). -/
theorem take_length (esc : Bool) (b : Byte) : (take esc b).2.length ≤ 1 := by
  unfold take
  split
  · simp
  · split <;> simp

/-- The bytes taken never give more bytes than they are (R97). -/
theorem takeAll_length_le (e : Bool) (x : List Byte) : (takeAll e x).2.length ≤ x.length := by
  induction x generalizing e with
  | nil => simp [takeAll]
  | cons b rest ih =>
    have h1 := ih (take e b).1
    have h2 := take_length e b
    simp only [takeAll, List.length_append, List.length_cons]
    omega

/-- Unstuffing never lengthens (R97), so the unstuffed body fits where the stuffed body did. -/
theorem unstuff_length_le {x u : List Byte} (h : unstuff x = .ok u) : u.length ≤ x.length := by
  unfold unstuff unstuffFinish at h
  split at h
  · cases h
  · cases h
    exact takeAll_length_le false x

theorem State.startUnstuff_buffersFit {s : State} (h : s.buffersFit) : s.startUnstuff.buffersFit := by
  rw [State.buffersFit_iff] at h ⊢
  exact ⟨h.1, Nat.zero_le _, h.2.2⟩

theorem State.unstuffBody_buffersFit {body : List Byte} {s : State} (h : s.buffersFit) :
    (s.unstuffBody body).buffersFit := by
  unfold State.unstuffBody
  split
  · next w hw =>
    have hf : ({ s with esc := (takeAll s.esc body).1, mem := { s.mem with work := w } } : State).buffersFit := by
      rw [State.buffersFit_iff] at h ⊢
      exact ⟨h.1, bufPushAll_length hw h.2.1, h.2.2⟩
    dsimp only
    split
    · exact State.buffersFit_congr rfl rfl hf
    · exact State.settle_buffersFit hf
  · exact State.buffersFit_congr rfl rfl h

theorem State.stagedRow_buffersFit {s : State} (h : s.buffersFit) : s.stagedRow.buffersFit := by
  unfold State.stagedRow
  split
  · exact h
  · split
    · exact State.collect_buffersFit h
    · exact h
  · exact State.unstuffBody_buffersFit (State.startUnstuff_buffersFit h)
  all_goals exact State.toIdle_buffersFit s

theorem State.checksumRow_buffersFit {s : State} (h : s.buffersFit) : s.checksumRow.buffersFit := by
  unfold State.checksumRow
  split
  · exact State.buffersFit_congr rfl rfl h
  · exact State.handOver_buffersFit _ _

theorem State.reject_buffersFit {e : DecodeError} {s : State} (h : s.buffersFit) : (s.reject e).buffersFit := by
  unfold State.reject
  split <;> exact State.buffersFit_congr rfl rfl h

end Sys2Proof.Machine
end

