-- ==== Sys2Proof/Laws/Ops.lean ====
section
/-! SUPPORT. What each shared operation can do, said once. -/

namespace Sys2Proof.Machine

/-! ## Whole operations -/

theorem State.atomic_of_idle {s t : State} (h : s.active = .idle) : s.atomic t = .next t := by
  simp [State.atomic, h]

theorem State.atomic_of_busy {s t : State} (h : s.active ≠ .idle) : s.atomic t = .refused .busy := by
  simp [State.atomic, h]

/-- A whole operation that answers a next state was started on an idle instance and gives just that state. -/
theorem State.atomic_eq_next {s t u : State} (h : s.atomic t = .next u) : s.active = .idle ∧ u = t := by
  unfold State.atomic at h
  split at h
  · next hi => exact ⟨hi, by cases h; rfl⟩
  · cases h

/-! ## The framer -/

/-- A push either appends all the bytes and goes on, or ends the operation with `CapacityExceeded`. -/
theorem State.pushOut_cases (bs : List Byte) (k : State → State) (s : State) :
    s.pushOut bs k = k { s with mem := { s.mem with output := s.mem.output ++ bs } } ∨
    (fmax s.pmax < s.mem.output.length + bs.length ∧ s.pushOut bs k = s.deliver (.error .capacityExceeded)) := by
  unfold State.pushOut
  split
  · next out ho => exact .inl (by rw [(bufPushAll_eq_some.1 ho).2])
  · next ho =>
    refine .inr ⟨?_, rfl⟩
    by_contra hc
    rw [bufPushAll_of_fits (by omega)] at ho
    cases ho

theorem State.pushOut_of_fits {bs : List Byte} {k : State → State} {s : State}
    (h : s.mem.output.length + bs.length ≤ fmax s.pmax) :
    s.pushOut bs k = k { s with mem := { s.mem with output := s.mem.output ++ bs } } := by
  simp [State.pushOut, bufPushAll_of_fits h]

theorem State.pushOut_of_full {bs : List Byte} {k : State → State} {s : State} (hb : bs ≠ [])
    (h : fmax s.pmax < s.mem.output.length + bs.length) :
    s.pushOut bs k = s.deliver (.error .capacityExceeded) := by
  simp [State.pushOut, bufPushAll_of_full hb h]

/-- A data byte for which both buffers have room goes to `W`, and what the Stuffer makes of it to `OUT`. -/
theorem State.pushData_of_fits {d : Byte} {k : State → State} {s : State}
    (hw : s.mem.work.length + 1 ≤ fmax s.pmax) (ho : s.mem.output.length + (emit d).length ≤ fmax s.pmax) :
    s.pushData d k = k { s with
      mem := { s.mem with work := s.mem.work ++ [d], output := s.mem.output ++ emit d } } := by
  have hp : bufPush (fmax s.pmax) s.mem.work d = some (s.mem.work ++ [d]) := bufPush_eq_some.2 ⟨hw, rfl⟩
  simp only [State.pushData, hp]
  exact State.pushOut_of_fits ho

/-- A data byte is stored as above, or one of the buffers is full and the operation ends. -/
theorem State.pushData_cases (d : Byte) (k : State → State) (s : State) :
    s.pushData d k = k { s with
        mem := { s.mem with work := s.mem.work ++ [d], output := s.mem.output ++ emit d } } ∨
    ((fmax s.pmax < s.mem.work.length + 1 ∨ fmax s.pmax < s.mem.output.length + (emit d).length) ∧
      s.pushData d k = s.deliver (.error .capacityExceeded)) := by
  unfold State.pushData
  split
  · next w hw =>
    obtain ⟨-, rfl⟩ := bufPush_eq_some.1 hw
    rcases State.pushOut_cases (emit d) k { s with mem := { s.mem with work := s.mem.work ++ [d] } } with h | ⟨h1, h2⟩
    · exact .inl h
    · exact .inr ⟨.inr h1, h2⟩
  · next hw =>
    refine .inr ⟨.inl ?_, rfl⟩
    by_contra hc
    rw [bufPush_eq_some.2 ⟨by omega, rfl⟩] at hw
    cases hw

/-! ## The deframer -/

/-- A received byte in `ExpectStart` (R155). -/
theorem State.deframe_expectStart {b : Byte} {s : State} (h : s.dstate = .expectStart) :
    s.deframe b = if b == FLAG then { s.advance with dstate := .readingBody } else s.fail .missingStartDelimiter := by
  simp [State.deframe, h]

/-- The terminating delimiter in `ReadingBody` (R155). -/
theorem State.deframe_flag {s : State} (h : s.dstate = .readingBody) :
    s.deframe FLAG = if s.esc then s.fail .truncatedEscape else { s.advance with dstate := .expectEnd } := by
  simp [State.deframe, h]

/-- Any other byte in `ReadingBody`, while `W` has room (R155). -/
theorem State.deframe_body {b : Byte} {s : State} (h : s.dstate = .readingBody) (hb : b ≠ FLAG)
    (hw : (take s.esc b).2 = [] ∨ s.mem.work.length + (take s.esc b).2.length ≤ fmax s.pmax) :
    s.deframe b = { s.advance with
      esc := (take s.esc b).1, mem := { s.mem with work := s.mem.work ++ (take s.esc b).2 } } := by
  have hp : bufPushAll (fmax s.pmax) s.mem.work (take s.esc b).2 = some (s.mem.work ++ (take s.esc b).2) :=
    bufPushAll_eq_some.2 ⟨hw, rfl⟩
  simp [State.deframe, h, hb, hp]

/-- After the terminating delimiter no byte is read any more (R121, R124). -/
theorem State.deframe_closed {b : Byte} {s : State} (h1 : s.dstate ≠ .expectStart) (h2 : s.dstate ≠ .readingBody) :
    s.deframe b = s := by
  unfold State.deframe
  split <;> simp_all

/-! ## The state machine of R121 -/

/-- A received byte in `ExpectStart` (R121). -/
theorem State.collect_expectStart {b : Byte} {s : State} (h : s.dstate = .expectStart) :
    s.collect b = if b == FLAG then { s.advance with dstate := .readingBody } else s.fail .missingStartDelimiter := by
  simp [State.collect, h]

/-- The terminating delimiter in `ReadingBody`, whatever stands before it (R121, R122). -/
theorem State.collect_flag {s : State} (h : s.dstate = .readingBody) :
    s.collect FLAG = { s.advance with dstate := .expectEnd } := by
  simp [State.collect, h]

/-- Any other byte in `ReadingBody`, while `W` has room (R121). -/
theorem State.collect_body {b : Byte} {s : State} (h : s.dstate = .readingBody) (hb : b ≠ FLAG)
    (hw : s.mem.work.length + 1 ≤ fmax s.pmax) :
    s.collect b = { s.advance with mem := { s.mem with work := s.mem.work ++ [b] } } := by
  have hp : bufPush (fmax s.pmax) s.mem.work b = some (s.mem.work ++ [b]) := bufPush_eq_some.2 ⟨hw, rfl⟩
  simp [State.collect, h, hb, hp]

/-- After the terminating delimiter no byte is read any more (R121, R124). -/
theorem State.collect_closed {b : Byte} {s : State} (h1 : s.dstate ≠ .expectStart) (h2 : s.dstate ≠ .readingBody) :
    s.collect b = s := by
  unfold State.collect
  split <;> simp_all

/-! ## The checks of `ExpectEnd` -/

/-- An empty body: nothing is summed. -/
theorem State.settle_empty {s : State} (hw : s.mem.work = []) : s.settle = s.fail .emptyBody := by
  simp [State.settle, hw]

/-- A last byte that is not the payload's checksum, which `acc` gives. -/
theorem State.settle_mismatch {p : List Byte} {a : Byte} {s : State} (hw : s.mem.work = p ++ [a])
    (hc : checksum p ≠ a) : s.settle = (s.sumOver p).fail (.checksumMismatch (checksum p) a) := by
  have hn : ¬ not8 (absorbAll 0x00#8 p) = a := hc
  simp [State.settle, hw, hn, checksum]

/-- The checksum right and room in `OUT`: the payload is there and is the outcome. -/
theorem State.settle_ok {p : List Byte} {s : State} (hw : s.mem.work = p ++ [checksum p])
    (ho : s.mem.output.length + p.length ≤ fmax s.pmax) :
    s.settle = { s.sumOver p with
      dstate := .done, outcome := some (.ok p), mem := { s.mem with output := s.mem.output ++ p } } := by
  simp [State.settle, hw, checksum, bufPushAll_of_fits ho]

/-- The checksum right and no room in `OUT`. -/
theorem State.settle_full {p : List Byte} {s : State} (hw : s.mem.work = p ++ [checksum p]) (hp : p ≠ [])
    (ho : fmax s.pmax < s.mem.output.length + p.length) : s.settle = (s.sumOver p).fail .capacityExceeded := by
  simp [State.settle, hw, checksum, bufPushAll_of_full hp ho]

/-- `settle` finds an empty body, a wrong checksum or the right one, the last with or without room in `OUT`. -/
theorem State.settle_cases (s : State) :
    (s.mem.work = [] ∧ s.settle = s.fail .emptyBody) ∨
    (∃ p a, s.mem.work = p ++ [a] ∧ checksum p ≠ a ∧
      s.settle = (s.sumOver p).fail (.checksumMismatch (checksum p) a)) ∨
    (∃ p, s.mem.work = p ++ [checksum p] ∧
      s.settle = { s.sumOver p with
        dstate := .done, outcome := some (.ok p), mem := { s.mem with output := s.mem.output ++ p } }) ∨
    (∃ p, s.mem.work = p ++ [checksum p] ∧ fmax s.pmax < s.mem.output.length + p.length ∧
      s.settle = (s.sumOver p).fail .capacityExceeded) := by
  rcases List.eq_nil_or_concat s.mem.work with hw | ⟨p, a, hw⟩
  · exact .inl ⟨hw, State.settle_empty hw⟩
  · rw [List.concat_eq_append] at hw
    by_cases hc : checksum p = a
    · subst hc
      by_cases ho : s.mem.output.length + p.length ≤ fmax s.pmax
      · exact .inr (.inr (.inl ⟨p, hw, State.settle_ok hw ho⟩))
      · by_cases hp : p = []
        · subst hp
          exact .inr (.inr (.inl ⟨[], hw, by simp [State.settle, hw, checksum, bufPushAll]⟩))
        · exact .inr (.inr (.inr ⟨p, hw, by omega, State.settle_full hw hp (by omega)⟩))
    · exact .inr (.inl ⟨p, a, hw, hc, State.settle_mismatch hw hc⟩)

/-! ## UNSTUFF in `ExpectEnd` -/

/-- An open marker at the end of the body: the bytes unstuffed before it are in `W`, and the operation fails. -/
theorem State.unstuffBody_error {body : List Byte} {s : State} (hu : unstuff body = .error .truncatedEscape)
    (hw : (takeAll false body).2.length ≤ fmax s.pmax) :
    s.startUnstuff.unstuffBody body =
      ({ s with esc := true, mem := { s.mem with work := (takeAll false body).2 } } : State).fail .truncatedEscape := by
  have he : (takeAll false body).1 = true := by
    cases h : (takeAll false body).1 with
    | true => rfl
    | false =>
      simp only [unstuff, unstuffFinish, h, Bool.false_eq_true, if_false] at hu
      cases hu
  have hp : bufPushAll (fmax s.pmax) [] (takeAll false body).2 = some (takeAll false body).2 :=
    bufPushAll_of_fits (by simpa using hw)
  simp [State.unstuffBody, hp, he, State.startUnstuff]

/-- A body that UNSTUFF accepts: the unstuffed body is in `W`, no escape is pending, and the checks are made on it. -/
theorem State.unstuffBody_ok {body u : List Byte} {s : State} (hu : unstuff body = .ok u)
    (hw : u.length ≤ fmax s.pmax) :
    s.startUnstuff.unstuffBody body = ({ s with esc := false, mem := { s.mem with work := u } } : State).settle := by
  have ht : takeAll false body = (false, u) := by
    unfold unstuff unstuffFinish at hu
    split at hu
    · cases hu
    · next he =>
      cases hu
      exact Prod.ext (by simpa using he) rfl
  have hp : bufPushAll (fmax s.pmax) [] u = some u := bufPushAll_of_fits (by simpa using hw)
  simp [State.unstuffBody, ht, hp, State.startUnstuff]

/-- More unstuffed bytes than `W` holds (R33). -/
theorem State.unstuffBody_full {body : List Byte} {s : State} (hw : fmax s.pmax < (takeAll false body).2.length) :
    s.startUnstuff.unstuffBody body = s.startUnstuff.fail .capacityExceeded := by
  have hp : bufPushAll (fmax s.pmax) [] (takeAll false body).2 = none := by
    rw [Option.eq_none_iff_forall_ne_some]
    intro out ho
    obtain ⟨h | h, -⟩ := bufPushAll_eq_some.1 ho
    · rw [h] at hw
      simp at hw
    · simp at h
      omega
  simp [State.unstuffBody, hp]

/-! ## The receive side -/

theorem State.rxBytes_decoding {bs : List Byte} {s : State} (h : s.active = .decoding) :
    s.rxBytes bs = s.deframeAll bs := by
  simp [State.rxBytes, h]

theorem State.rxBytes_stagedDecoding {bs : List Byte} {s : State} (h : s.active = .stagedDecoding) :
    s.rxBytes bs = s.collectAll bs := by
  simp [State.rxBytes, h]

theorem State.rxBytes_unstuffing {bs : List Byte} {s : State} (h : s.active = .unstuffing) :
    s.rxBytes bs = { s.takeAlone bs with cursor := s.cursor + bs.length } := by
  simp [State.rxBytes, h]

/-! ## What the operations leave alone -/

/-- What belongs to the instance and the caller and not to the operation in progress, and which operation that is. -/
def State.SameCaller (s t : State) : Prop :=
  t.pmax = s.pmax ∧ t.pending = s.pending ∧ t.resetReq = s.resetReq

/-- The same, and the operation in progress goes on. -/
def State.SameOperation (s t : State) : Prop :=
  s.SameCaller t ∧ t.active = s.active ∧ t.pairs = s.pairs ∧ t.operand = s.operand ∧ t.unitOut = s.unitOut ∧
  t.mem.input = s.mem.input

theorem State.SameCaller.refl (s : State) : s.SameCaller s := ⟨rfl, rfl, rfl⟩

theorem State.SameCaller.trans {s t u : State} (h : s.SameCaller t) (g : t.SameCaller u) : s.SameCaller u :=
  ⟨g.1.trans h.1, g.2.1.trans h.2.1, g.2.2.trans h.2.2⟩

theorem State.SameOperation.refl (s : State) : s.SameOperation s := ⟨.refl s, rfl, rfl, rfl, rfl, rfl⟩

theorem State.SameOperation.trans {s t u : State} (h : s.SameOperation t) (g : t.SameOperation u) :
    s.SameOperation u := by
  obtain ⟨h0, h1, h2, h3, h4, h5⟩ := h
  obtain ⟨g0, g1, g2, g3, g4, g5⟩ := g
  exact ⟨h0.trans g0, g1.trans h1, g2.trans h2, g3.trans h3, g4.trans h4, g5.trans h5⟩

theorem State.deliver_sameCaller (r : Result) (s : State) : s.SameCaller (s.deliver r) := ⟨rfl, rfl, rfl⟩

theorem State.handOver_sameCaller (u : UnitResult) (s : State) : s.SameCaller (s.handOver u) := ⟨rfl, rfl, rfl⟩

theorem State.retire_sameCaller (s : State) : s.SameCaller s.retire := ⟨rfl, rfl, rfl⟩

/-- A push goes on with the operation, or ends it with `CapacityExceeded`. -/
theorem State.pushOut_keeps {bs : List Byte} {k : State → State} {s : State}
    (hk : ∀ t : State, t.SameOperation (k t)) :
    s.SameOperation (s.pushOut bs k) ∨ s.pushOut bs k = s.deliver (.error .capacityExceeded) := by
  rcases State.pushOut_cases bs k s with h | ⟨-, h⟩
  · exact .inl (h ▸ State.SameOperation.trans ⟨⟨rfl, rfl, rfl⟩, rfl, rfl, rfl, rfl, rfl⟩ (hk _))
  · exact .inr h

theorem State.pushData_keeps {d : Byte} {k : State → State} {s : State} (hk : ∀ t : State, t.SameOperation (k t)) :
    s.SameOperation (s.pushData d k) ∨ s.pushData d k = s.deliver (.error .capacityExceeded) := by
  rcases State.pushData_cases d k s with h | ⟨-, h⟩
  · exact .inl (h ▸ State.SameOperation.trans ⟨⟨rfl, rfl, rfl⟩, rfl, rfl, rfl, rfl, rfl⟩ (hk _))
  · exact .inr h

/-- A transmit byte goes on with the operation, or ends the framer's with `CapacityExceeded`. -/
theorem State.txByte_keeps (d : Byte) (s : State) :
    s.SameOperation (s.txByte d) ∨ s.txByte d = s.deliver (.error .capacityExceeded) := by
  unfold State.txByte
  split
  · split
    · exact State.pushData_keeps fun t => ⟨⟨rfl, rfl, rfl⟩, rfl, rfl, rfl, rfl, rfl⟩
    · exact State.pushData_keeps fun t => ⟨⟨rfl, rfl, rfl⟩, rfl, rfl, rfl, rfl, rfl⟩
    all_goals exact .inl ⟨⟨rfl, rfl, rfl⟩, rfl, rfl, rfl, rfl, rfl⟩
  all_goals exact .inl ⟨⟨rfl, rfl, rfl⟩, rfl, rfl, rfl, rfl, rfl⟩

theorem State.deframe_keeps (b : Byte) (s : State) : s.SameOperation (s.deframe b) := by
  unfold State.deframe
  repeat' split
  all_goals exact ⟨⟨rfl, rfl, rfl⟩, rfl, rfl, rfl, rfl, rfl⟩

theorem State.collect_keeps (b : Byte) (s : State) : s.SameOperation (s.collect b) := by
  unfold State.collect
  repeat' split
  all_goals exact ⟨⟨rfl, rfl, rfl⟩, rfl, rfl, rfl, rfl, rfl⟩

theorem State.deframeAll_keeps (bs : List Byte) (s : State) : s.SameOperation (s.deframeAll bs) := by
  induction bs generalizing s with
  | nil => exact .refl s
  | cons b rest ih => exact (State.deframe_keeps b s).trans (ih _)

theorem State.collectAll_keeps (bs : List Byte) (s : State) : s.SameOperation (s.collectAll bs) := by
  induction bs generalizing s with
  | nil => exact .refl s
  | cons b rest ih => exact (State.collect_keeps b s).trans (ih _)

/-- Received bytes go on with the operation. -/
theorem State.rxBytes_keeps (bs : List Byte) (s : State) : s.SameOperation (s.rxBytes bs) := by
  unfold State.rxBytes
  split
  · exact State.deframeAll_keeps bs s
  · exact State.collectAll_keeps bs s
  all_goals exact ⟨⟨rfl, rfl, rfl⟩, rfl, rfl, rfl, rfl, rfl⟩

theorem State.settle_keeps (s : State) : s.SameOperation s.settle := by
  rcases State.settle_cases s with ⟨-, h⟩ | ⟨_, _, -, -, h⟩ | ⟨_, -, h⟩ | ⟨_, -, -, h⟩ <;> rw [h]
  all_goals exact ⟨⟨rfl, rfl, rfl⟩, rfl, rfl, rfl, rfl, rfl⟩

theorem State.unstuffBody_keeps (body : List Byte) (s : State) : s.SameOperation (s.unstuffBody body) := by
  unfold State.unstuffBody
  split
  · dsimp only
    split
    · exact ⟨⟨rfl, rfl, rfl⟩, rfl, rfl, rfl, rfl, rfl⟩
    · exact State.SameOperation.trans ⟨⟨rfl, rfl, rfl⟩, rfl, rfl, rfl, rfl, rfl⟩ (State.settle_keeps _)
  · exact ⟨⟨rfl, rfl, rfl⟩, rfl, rfl, rfl, rfl, rfl⟩

/-- The request rows of DECODE. -/
theorem State.beginDecode_sameCaller (a : Activity) (pairs : Bool) (inp : List Byte) (s : State) :
    s.SameCaller (s.beginDecode a pairs inp) := by
  unfold State.beginDecode
  split <;> exact ⟨rfl, rfl, rfl⟩

theorem State.beginSerial_sameCaller (op : BitVec 1) (pairs : Bool) (inp : List Byte) (s : State) :
    s.SameCaller (s.beginSerial op pairs inp) := by
  unfold State.beginSerial
  split
  · split <;> exact ⟨rfl, rfl, rfl⟩
  · exact State.beginDecode_sameCaller _ _ _ _

theorem State.framerRow_sameCaller (s : State) : s.SameCaller s.framerRow := by
  have push : ∀ bs k, (∀ t : State, t.SameOperation (k t)) → s.SameCaller (s.pushOut bs k) := fun bs k hk =>
    (State.pushOut_keeps hk).elim (fun h => h.1) (fun h => h ▸ State.deliver_sameCaller _ s)
  unfold State.framerRow
  split
  · exact push _ _ fun t => ⟨⟨rfl, rfl, rfl⟩, rfl, rfl, rfl, rfl, rfl⟩
  · exact ⟨rfl, rfl, rfl⟩
  · exact .refl s
  · exact push _ _ fun t => ⟨⟨rfl, rfl, rfl⟩, rfl, rfl, rfl, rfl, rfl⟩
  · exact State.deliver_sameCaller _ s

theorem State.deframerRow_sameCaller (s : State) : s.SameCaller s.deframerRow := by
  unfold State.deframerRow
  split
  · exact .refl s
  · exact .refl s
  · exact (State.settle_keeps s).1
  all_goals exact State.retire_sameCaller s

theorem State.stagedRow_sameCaller (s : State) : s.SameCaller s.stagedRow := by
  unfold State.stagedRow
  split
  · exact .refl s
  · split
    · exact (State.collect_keeps _ s).1
    · exact .refl s
  · exact State.SameCaller.trans ⟨rfl, rfl, rfl⟩ (State.unstuffBody_keeps s.mem.work s.startUnstuff).1
  all_goals exact State.retire_sameCaller s

theorem State.checksumRow_sameCaller (s : State) : s.SameCaller s.checksumRow := by
  unfold State.checksumRow
  split
  · exact ⟨rfl, rfl, rfl⟩
  · exact State.handOver_sameCaller _ s

end Sys2Proof.Machine
end

