-- ==== Sys2Proof/Laws/Fetch.lean ====
section
/-! SUPPORT. What a step does, said once: reset, an instruction, a rejection, or a row that consumes no symbol. -/

namespace Sys2Proof.Machine

theorem State.fetch_reset {s : State} (h : s.resetReq = true) : s.fetch = .row s.applyReset := by
  simp [State.fetch, h]

theorem State.fetch_decoded {s : State} {c : Ctx} {bs rest : List Byte} {i : Instr} (h : s.resetReq = false)
    (hw : s.window = some (c, bs)) (hd : decode c bs = .ok (i, rest)) : s.fetch = .instr i s.consume := by
  simp [State.fetch, h, hw, hd]

theorem State.fetch_rejected {s : State} {c : Ctx} {bs : List Byte} {e : DecodeError} (h : s.resetReq = false)
    (hw : s.window = some (c, bs)) (hd : decode c bs = .error e) : s.fetch = .row (s.reject e) := by
  simp [State.fetch, h, hw, hd]

theorem State.fetch_sequence {s : State} (h : s.resetReq = false) (hw : s.window = none) : s.fetch = s.sequence := by
  simp [State.fetch, h, hw]

/-! ## What each state presents to the decoder -/

theorem window_request {s : State} {op : BitVec 1} {x : List Byte} {q : List Command} (ha : s.active = .idle)
    (hp : s.pending = .request op x :: q) : s.window = some (.request, selectorByte op :: x) := by
  simp [State.window, ha, hp]

theorem window_payload {s : State} (ha : s.active = .encoding) (ht : s.tstate = .data)
    (hc : s.cursor < s.mem.input.length) : s.window = some (.tx, s.mem.input.drop s.cursor) := by
  simp [State.window, ha, ht, hc]

theorem window_payload_end {s : State} (ha : s.active = .encoding) (ht : s.tstate = .data)
    (hc : s.mem.input.length ≤ s.cursor) : s.window = none := by
  simp [State.window, ha, ht, Nat.not_lt.2 hc]

theorem window_cksum {s : State} (ha : s.active = .encoding) (ht : s.tstate = .cksum) :
    s.window = some (.tx, [not8 s.acc]) := by
  simp [State.window, ha, ht]

theorem window_expectStart {s : State} (ha : s.active = .decoding) (hd : s.dstate = .expectStart) :
    s.window = some (.rxStart, s.mem.input.drop s.cursor) := by
  simp [State.window, ha, hd]

theorem window_readingBody {s : State} (ha : s.active = .decoding) (hd : s.dstate = .readingBody) :
    s.window = some (if s.esc then .rxEscaped else if s.pairs then .rxPairs else .rxBody,
      s.mem.input.drop s.cursor) := by
  simp [State.window, ha, hd]

theorem window_decoder_closed {s : State} (ha : s.active = .decoding) (h1 : s.dstate ≠ .expectStart)
    (h2 : s.dstate ≠ .readingBody) : s.window = none := by
  unfold State.window
  rw [ha]
  dsimp only
  split <;> simp_all

theorem window_staged_expectStart {s : State} (ha : s.active = .stagedDecoding) (hd : s.dstate = .expectStart) :
    s.window = some (.rxStart, s.mem.input.drop s.cursor) := by
  simp [State.window, ha, hd]

theorem window_staged_end {s : State} (ha : s.active = .stagedDecoding) (hd : s.dstate = .readingBody)
    (hl : s.mem.input.drop s.cursor = []) : s.window = some (.rxBody, []) := by
  simp only [State.window, ha, hd, hl]

theorem window_staged_flag {s : State} {rest : List Byte} (ha : s.active = .stagedDecoding)
    (hd : s.dstate = .readingBody) (hl : s.mem.input.drop s.cursor = FLAG :: rest) :
    s.window = some (.rxBody, FLAG :: rest) := by
  simp only [State.window, ha, hd, hl]
  rfl

theorem window_staged_byte {s : State} {b : Byte} {rest : List Byte} (ha : s.active = .stagedDecoding)
    (hd : s.dstate = .readingBody) (hl : s.mem.input.drop s.cursor = b :: rest) (hb : b ≠ FLAG) : s.window = none := by
  simp only [State.window, ha, hd, hl]
  simp [hb]

theorem window_staged_closed {s : State} (ha : s.active = .stagedDecoding) (h1 : s.dstate ≠ .expectStart)
    (h2 : s.dstate ≠ .readingBody) : s.window = none := by
  unfold State.window
  rw [ha]
  dsimp only
  split <;> simp_all

theorem window_stuffing {s : State} (ha : s.active = .stuffing) (hc : s.cursor < s.operand.length) :
    s.window = some (.tx, s.operand.drop s.cursor) := by
  simp [State.window, ha, hc]

theorem window_unstuffing {s : State} (ha : s.active = .unstuffing) (hc : s.cursor < s.operand.length) :
    s.window = some (if s.esc then .unstuffOperand else if s.pairs then .unstuffPairs else .unstuff,
      s.operand.drop s.cursor) := by
  simp [State.window, ha, hc]

/-- A byte read at an index is the front of what is left from there. -/
theorem drop_of_bufRead {l : List Byte} {i : Nat} {d : Byte} (h : bufRead l i = some d) :
    i < l.length ∧ l.drop i = d :: l.drop (i + 1) := by
  obtain ⟨h1, h2⟩ := List.getElem?_eq_some_iff.1 h
  exact ⟨h1, by rw [← h2, List.drop_eq_getElem_cons h1]⟩

/-! ## The step -/

theorem step_of_row {s t : State} (h : s.fetch = .row t) : step s = .next t := by
  simp [step, h]

theorem step_of_instr {s t : State} {i : Instr} (h : s.fetch = .instr i t) : step s = exec i t := by
  simp [step, h]

theorem step_of_idle {s : State} (h : s.fetch = .idle) : step s = .next s := by
  simp [step, h]

/-- The receive contexts without an escape pair reject a missing byte only. -/
theorem decode_body_rejects {c : Ctx} {bs : List Byte} {e : DecodeError}
    (hc : c = .rxBody ∨ c = .rxPairs ∨ c = .rxEscaped) (hd : decode c bs = .error e) : e = .noStop := by
  cases bs with
  | nil => rcases hc with rfl | rfl | rfl <;> (cases hd; rfl)
  | cons b rest => rcases hc with rfl | rfl | rfl <;> cases hd

/-- `ExpectStart` rejects under one name only. -/
theorem decode_start_rejects {bs : List Byte} {e : DecodeError} (hd : decode .rxStart bs = .error e) :
    e = .missingStart := by
  cases bs with
  | nil =>
    cases hd
    rfl
  | cons b rest =>
    by_cases hb : b = FLAG
    · rw [hb, decode_rxStart_flag] at hd
      cases hd
    · rw [decode_rxStart_other hb] at hd
      cases hd
      rfl

/-- The bytes a step presents to the decoder are rejected in two cases only: no start delimiter, and no byte left in
the body (R121, R155). -/
theorem window_rejects {s : State} {c : Ctx} {bs : List Byte} {e : DecodeError} (hw : s.window = some (c, bs))
    (hd : decode c bs = .error e) :
    (s.active = .decoding ∨ s.active = .stagedDecoding) ∧
      ((s.dstate = .expectStart ∧ e = .missingStart) ∨ (s.dstate = .readingBody ∧ e = .noStop)) := by
  cases ha : s.active with
  | idle =>
    simp only [State.window, ha] at hw
    split at hw <;> cases hw
    rw [decode_request_selector] at hd
    split at hd <;> cases hd
  | encoding =>
    simp only [State.window, ha] at hw
    split at hw
    · split at hw
      · next hlt =>
        cases hw
        rw [List.drop_eq_getElem_cons hlt, decode_tx] at hd
        cases hd
      · cases hw
    · cases hw
      cases hd
    · cases hw
  | decoding =>
    refine ⟨.inl rfl, ?_⟩
    simp only [State.window, ha] at hw
    split at hw
    · next hs =>
      cases hw
      exact .inl ⟨hs, decode_start_rejects hd⟩
    · next hs =>
      refine .inr ⟨hs, decode_body_rejects ?_ hd⟩
      injection hw with hw
      injection hw with hc _
      rw [← hc]
      split
      · exact .inr (.inr rfl)
      · split
        · exact .inr (.inl rfl)
        · exact .inl rfl
    · cases hw
  | stagedDecoding =>
    refine ⟨.inr rfl, ?_⟩
    simp only [State.window, ha] at hw
    split at hw
    · next hs =>
      cases hw
      exact .inl ⟨hs, decode_start_rejects hd⟩
    · next hs =>
      refine .inr ⟨hs, decode_body_rejects (.inl ?_) hd⟩
      split at hw
      · cases hw
        rfl
      · split at hw
        · cases hw
          rfl
        · cases hw
    · cases hw
  | checksumming =>
    simp only [State.window, ha] at hw
    cases hw
  | stuffing =>
    simp only [State.window, ha] at hw
    split at hw
    · next hlt =>
      cases hw
      rw [List.drop_eq_getElem_cons hlt, decode_tx] at hd
      cases hd
    · cases hw
  | unstuffing =>
    simp only [State.window, ha] at hw
    split at hw
    · next hlt =>
      rw [List.drop_eq_getElem_cons hlt] at hw
      cases hw
      split at hd
      · cases hd
      · split at hd <;> cases hd
    · cases hw

end Sys2Proof.Machine
end

