-- ==== Sys2Proof/Laws/PerInstr.lean ====
section
/-! SUPPORT. One family of statements for all instructions, one lemma per constructor: an encoding is never empty. -/

namespace Sys2Proof.Laws.EncodeNonempty

/-- Where an instruction has an encoding, it has at least one byte. -/
def Statement (i : Instr) : Prop := ∀ c bs, Sys2Proof.encode i = some (c, bs) → bs ≠ []

theorem encode (payload : List Byte) : Statement (Instr.encode payload) := by
  rintro c bs ⟨⟩
  exact List.cons_ne_nil _ _

theorem decode (inp : List Byte) : Statement (Instr.decode inp) := by
  rintro c bs ⟨⟩
  exact List.cons_ne_nil _ _

theorem checksum (s : List Byte) : Statement (Instr.checksum s) := by
  intro c bs h
  cases h

theorem stuff (s : List Byte) : Statement (Instr.stuff s) := by
  intro c bs h
  cases h

theorem unstuff (s : List Byte) : Statement (Instr.unstuff s) := by
  intro c bs h
  cases h

theorem frame (payload : List Byte) : Statement (Instr.frame payload) := by
  rintro c bs ⟨⟩
  exact List.cons_ne_nil _ _

theorem txEscFlag : Statement (Instr.txEscFlag) := by
  rintro c bs ⟨⟩
  exact List.cons_ne_nil _ _

theorem txEscEsc : Statement (Instr.txEscEsc) := by
  rintro c bs ⟨⟩
  exact List.cons_ne_nil _ _

theorem txEscXon : Statement (Instr.txEscXon) := by
  rintro c bs ⟨⟩
  exact List.cons_ne_nil _ _

theorem txEscXoff : Statement (Instr.txEscXoff) := by
  rintro c bs ⟨⟩
  exact List.cons_ne_nil _ _

theorem txLiteral (d : Byte) : Statement (Instr.txLiteral d) := by
  rintro c bs ⟨⟩
  exact List.cons_ne_nil _ _

theorem rxStart : Statement (Instr.rxStart) := by
  rintro c bs ⟨⟩
  exact List.cons_ne_nil _ _

theorem rxStop : Statement (Instr.rxStop) := by
  rintro c bs ⟨⟩
  exact List.cons_ne_nil _ _

theorem rxEsc : Statement (Instr.rxEsc) := by
  rintro c bs ⟨⟩
  exact List.cons_ne_nil _ _

theorem rxLiteral (b : Byte) : Statement (Instr.rxLiteral b) := by
  rintro c bs ⟨⟩
  exact List.cons_ne_nil _ _

theorem rxOperand (v : Byte) : Statement (Instr.rxOperand v) := by
  rintro c bs ⟨⟩
  exact List.cons_ne_nil _ _

theorem escPair (v : Byte) : Statement (Instr.escPair v) := by
  rintro c bs ⟨⟩
  exact List.cons_ne_nil _ _

theorem escPairFlag : Statement (Instr.escPairFlag) := by
  rintro c bs ⟨⟩
  exact List.cons_ne_nil _ _

theorem escPairEsc : Statement (Instr.escPairEsc) := by
  rintro c bs ⟨⟩
  exact List.cons_ne_nil _ _

theorem escPairXon : Statement (Instr.escPairXon) := by
  rintro c bs ⟨⟩
  exact List.cons_ne_nil _ _

theorem escPairXoff : Statement (Instr.escPairXoff) := by
  rintro c bs ⟨⟩
  exact List.cons_ne_nil _ _

end Sys2Proof.Laws.EncodeNonempty
end

