-- ==== Sys2Proof/Laws/Step.lean ====
section
/-! SUPPORT. What a step can do, said once: `step_cases` gives a next state for every state, with the one case of
`StepCase` that it falls under. No proof about `step` needs to unfold it. -/

namespace Sys2Proof.Machine

/-! ## A symbol of a class is given its byte -/

theorem exec_txClass (d : Byte) (s : State) : exec (txClass d) s = .next (s.txByte d) := by
  unfold txClass
  repeat' split
  all_goals simp_all [exec, execTxEscFlag, execTxEscEsc, execTxEscXon, execTxEscXoff, execTxLiteral]

theorem exec_rxClass (b : Byte) (s : State) : exec (rxClass b) s = .next (s.rxBytes [b]) := by
  unfold rxClass
  split <;> simp_all [exec, execRxEsc, execRxLiteral]

theorem exec_rxBodyClass (b : Byte) (s : State) : exec (rxBodyClass b) s = .next (s.rxBytes [b]) := by
  unfold rxBodyClass
  split
  · simp_all [exec, execRxStop]
  · exact exec_rxClass b s

theorem exec_rxEscapedClass (b : Byte) (s : State) : exec (rxEscapedClass b) s = .next (s.rxBytes [b]) := by
  unfold rxEscapedClass
  split <;> simp_all [exec, execRxStop, execRxOperand]

theorem exec_pairClass (v : Byte) (s : State) : exec (pairClass v) s = .next (s.rxBytes [ESC, v]) := by
  unfold pairClass
  repeat' split
  all_goals simp_all [exec, execEscPair, execEscPairFlag, execEscPairEsc, execEscPairXon, execEscPairXoff]

/-! ## One step from the window -/

/-- A step that decodes a symbol of a busy instance runs it at the state itself. -/
theorem step_of_symbol {s : State} {c : Ctx} {bs rest : List Byte} {i : Instr} (hr : s.resetReq = false)
    (hw : s.window = some (c, bs)) (hd : decode c bs = .ok (i, rest)) (ha : s.active ≠ .idle) :
    step s = exec i s := by
  have hc : s.consume = s := by
    unfold State.consume
    split
    · next h => exact absurd h ha
    · rfl
  rw [step_of_instr (State.fetch_decoded hr hw hd), hc]

theorem step_of_reject {s : State} {c : Ctx} {bs : List Byte} {e : DecodeError} (hr : s.resetReq = false)
    (hw : s.window = some (c, bs)) (hd : decode c bs = .error e) : step s = .next (s.reject e) :=
  step_of_row (State.fetch_rejected hr hw hd)

theorem step_of_sequence {s t : State} (hr : s.resetReq = false) (hw : s.window = none)
    (hs : s.sequence = .row t) : step s = .next t :=
  step_of_row (by rw [State.fetch_sequence hr hw, hs])

/-! ## The cases -/

/-- Every way a step goes, with what is known of the state before it and the state after it. -/
inductive StepCase (s t : State) : Prop
  /-- Reset is asserted. -/
  | reset (hr : s.resetReq = true) (ht : t = s.applyReset)
  /-- Idle, and nothing is requested. -/
  | idle (hr : s.resetReq = false) (ha : s.active = .idle) (hp : s.pending = []) (ht : t = s)
  /-- A whole ENCODE or DECODE. -/
  | outcome (hr : s.resetReq = false) (ha : s.active = .idle) (r : Result)
      (ht : t = ({ s with pending := s.pending.tail } : State).deliver r)
  /-- A whole operation of an internal unit, or FRAME. -/
  | unit (hr : s.resetReq = false) (ha : s.active = .idle) (u : UnitResult)
      (ht : t = ({ s with pending := s.pending.tail } : State).handOver u)
  /-- A request taken byte by byte. -/
  | serial (hr : s.resetReq = false) (ha : s.active = .idle) (op : BitVec 1) (pairs : Bool) (inp : List Byte)
      (ht : t = ({ s with pending := s.pending.tail } : State).beginSerial op pairs inp)
  /-- A request taken by the state machine of R121. -/
  | staged (hr : s.resetReq = false) (ha : s.active = .idle) (inp : List Byte)
      (ht : t = ({ s with pending := s.pending.tail } : State).beginDecode .stagedDecoding false inp)
  /-- An internal unit on its own, byte by byte. -/
  | unitSerial (hr : s.resetReq = false) (ha : s.active = .idle) (u : Leaf) (pairs : Bool) (x : List Byte)
      (ht : t = ({ s with pending := s.pending.tail } : State).beginUnit u pairs x)
  /-- T_DATA and a payload byte. -/
  | payload (hr : s.resetReq = false) (ha : s.active = .encoding) (hs : s.tstate = .data)
      (hc : s.cursor < s.mem.input.length) (ht : t = s.txByte s.mem.input[s.cursor])
  /-- T_CKSUM. -/
  | checksumByte (hr : s.resetReq = false) (ha : s.active = .encoding) (hs : s.tstate = .cksum)
      (ht : t = s.txByte (not8 s.acc))
  /-- The other framer rows. -/
  | framer (hr : s.resetReq = false) (ha : s.active = .encoding) (hs : s.tstate ≠ .cksum)
      (hc : s.tstate = .data → s.mem.input.length ≤ s.cursor) (ht : t = s.framerRow)
  /-- No start delimiter. -/
  | noStart (hr : s.resetReq = false) (ha : s.active = .decoding ∨ s.active = .stagedDecoding)
      (hs : s.dstate = .expectStart) (hl : (s.mem.input.drop s.cursor).head? ≠ some FLAG)
      (ht : t = s.fail .missingStartDelimiter)
  /-- The end of the input in the body. -/
  | noStop (hr : s.resetReq = false) (ha : s.active = .decoding ∨ s.active = .stagedDecoding)
      (hs : s.dstate = .readingBody) (hl : s.mem.input.drop s.cursor = []) (ht : t = s.fail .unterminatedFrame)
  /-- The start delimiter. -/
  | start (hr : s.resetReq = false) (ha : s.active = .decoding ∨ s.active = .stagedDecoding)
      (hs : s.dstate = .expectStart) (rest : List Byte) (hl : s.mem.input.drop s.cursor = FLAG :: rest)
      (ht : t = s.rxBytes [FLAG])
  /-- A body byte of the deframer, the delimiter among them. -/
  | bodyByte (hr : s.resetReq = false) (ha : s.active = .decoding) (hs : s.dstate = .readingBody) (b : Byte)
      (rest : List Byte) (hl : s.mem.input.drop s.cursor = b :: rest) (ht : t = s.deframe b)
  /-- An escape pair taken as one symbol by the deframer. -/
  | bodyPair (hr : s.resetReq = false) (ha : s.active = .decoding) (hs : s.dstate = .readingBody)
      (hp : s.pairs = true) (he : s.esc = false) (v : Byte) (rest : List Byte)
      (hl : s.mem.input.drop s.cursor = ESC :: v :: rest) (hv : v ≠ FLAG) (ht : t = (s.deframe ESC).deframe v)
  /-- The deframer rows that read no byte. -/
  | deframer (hr : s.resetReq = false) (ha : s.active = .decoding) (h1 : s.dstate ≠ .expectStart)
      (h2 : s.dstate ≠ .readingBody) (ht : t = s.deframerRow)
  /-- A body byte of the state machine of R121, the delimiter among them. -/
  | stagedByte (hr : s.resetReq = false) (ha : s.active = .stagedDecoding) (hs : s.dstate = .readingBody) (b : Byte)
      (rest : List Byte) (hl : s.mem.input.drop s.cursor = b :: rest) (ht : t = s.collect b)
  /-- The rows of R121 that read no byte. -/
  | stagedEnd (hr : s.resetReq = false) (ha : s.active = .stagedDecoding) (h1 : s.dstate ≠ .expectStart)
      (h2 : s.dstate ≠ .readingBody) (ht : t = s.stagedRow)
  /-- The Checksum unit on its own. -/
  | checksum (hr : s.resetReq = false) (ha : s.active = .checksumming) (ht : t = s.checksumRow)
  /-- The Stuffer on its own: a byte. -/
  | stuff (hr : s.resetReq = false) (ha : s.active = .stuffing) (hc : s.cursor < s.operand.length)
      (ht : t = s.txByte s.operand[s.cursor])
  /-- The Stuffer on its own: the end. -/
  | stuffEnd (hr : s.resetReq = false) (ha : s.active = .stuffing) (hc : s.operand.length ≤ s.cursor)
      (ht : t = s.handOver (.bytes s.emitted))
  /-- The Unstuffer on its own: a byte. -/
  | unstuffByte (hr : s.resetReq = false) (ha : s.active = .unstuffing) (b : Byte) (rest : List Byte)
      (hl : s.operand.drop s.cursor = b :: rest) (ht : t = s.rxBytes [b])
  /-- The Unstuffer on its own: an escape pair taken as one symbol. -/
  | unstuffPair (hr : s.resetReq = false) (ha : s.active = .unstuffing) (hp : s.pairs = true) (he : s.esc = false)
      (v : Byte) (rest : List Byte) (hl : s.operand.drop s.cursor = ESC :: v :: rest) (ht : t = s.rxBytes [ESC, v])
  /-- The Unstuffer on its own: the end. -/
  | unstuffEnd (hr : s.resetReq = false) (ha : s.active = .unstuffing) (hc : s.operand.length ≤ s.cursor)
      (ht : t = s.handOver (unstuffFinish s.esc s.emitted).toUnit)

/-! ## Each unit's step -/

/-- An idle instance, whatever is requested. -/
theorem step_cases_idle {s : State} (hr : s.resetReq = false) (ha : s.active = .idle) :
    ∃ t, step s = .next t ∧ StepCase s t := by
  have hidle : ∀ q, ({ s with pending := q } : State).active = .idle := fun _ => ha
  have row : ∀ {t : State}, s.window = none → s.sequence = .row t → step s = .next t := step_of_sequence hr
  have run : ∀ {i : Instr} {t : State}, s.window = none → s.sequence = .instr i t → step s = exec i t :=
    fun hw hs => step_of_instr (by rw [State.fetch_sequence hr hw, hs])
  cases hp : s.pending with
  | nil =>
    refine ⟨s, step_of_idle ?_, .idle hr ha hp rfl⟩
    rw [State.fetch_sequence hr (by simp [State.window, ha, hp])]
    simp [State.sequence, State.idleRow, ha, hp]
  | cons c q =>
    have hq : s.pending.tail = q := by rw [hp]; rfl
    cases c with
    | request op inp =>
      have hw := window_request ha hp
      have hc : s.consume = { s with pending := q } := by simp [State.consume, ha, hq]
      by_cases hop : op = 0#1
      · refine ⟨_, ?_, .outcome hr ha (encodeFrame s.pmax inp) rfl⟩
        rw [step_of_instr (State.fetch_decoded hr hw (by rw [decode_request_selector, if_pos hop])), hc, hq]
        exact State.atomic_of_idle (hidle q)
      · refine ⟨_, ?_, .outcome hr ha (decodeFrame s.pmax inp) rfl⟩
        rw [step_of_instr (State.fetch_decoded hr hw (by rw [decode_request_selector, if_neg hop])), hc, hq]
        exact State.atomic_of_idle (hidle q)
    | serial op pairs inp =>
      refine ⟨_, row ?_ ?_, .serial hr ha op pairs inp rfl⟩
      · simp [State.window, ha, hp]
      · simp [State.sequence, State.idleRow, ha, hp]
    | staged inp =>
      refine ⟨_, row ?_ ?_, .staged hr ha inp rfl⟩
      · simp [State.window, ha, hp]
      · simp [State.sequence, State.idleRow, ha, hp]
    | unit u x =>
      have hs : s.sequence = .instr (u.instr x) { s with pending := q } := by
        simp [State.sequence, State.idleRow, ha, hp]
      have hw : s.window = none := by simp [State.window, ha, hp]
      cases u
      · refine ⟨_, (run hw hs).trans (State.atomic_of_idle (hidle q)), .unit hr ha _ (by rw [hq])⟩
      · refine ⟨_, (run hw hs).trans (State.atomic_of_idle (hidle q)), .unit hr ha _ (by rw [hq])⟩
      · refine ⟨_, (run hw hs).trans (State.atomic_of_idle (hidle q)), .unit hr ha _ (by rw [hq])⟩
    | unitSerial u pairs x =>
      refine ⟨_, row ?_ ?_, .unitSerial hr ha u pairs x rfl⟩
      · simp [State.window, ha, hp]
      · simp [State.sequence, State.idleRow, ha, hp]
    | frame x =>
      refine ⟨_, (run (i := .frame x) (t := { s with pending := q }) ?_ ?_).trans (State.atomic_of_idle (hidle q)),
        .unit hr ha _ (by rw [hq])⟩
      · simp [State.window, ha, hp]
      · simp [State.sequence, State.idleRow, ha, hp]

/-- The framer. -/
theorem step_cases_encoding {s : State} (hr : s.resetReq = false) (ha : s.active = .encoding) :
    ∃ t, step s = .next t ∧ StepCase s t := by
  have row : s.window = none → step s = .next s.framerRow := fun hw =>
    step_of_sequence hr hw (by simp [State.sequence, ha])
  have hb : s.active ≠ .idle := by simp [ha]
  cases hs : s.tstate with
  | start =>
    exact ⟨_, row (by simp [State.window, ha, hs]), .framer hr ha (by simp [hs]) (by simp [hs]) rfl⟩
  | data =>
    by_cases hc : s.cursor < s.mem.input.length
    · have hw := window_payload ha hs hc
      rw [List.drop_eq_getElem_cons hc] at hw
      exact ⟨_, (step_of_symbol hr hw (decode_tx _ _) hb).trans (exec_txClass _ s), .payload hr ha hs hc rfl⟩
    · exact ⟨_, row (window_payload_end ha hs (by omega)), .framer hr ha (by simp [hs]) (fun _ => by omega) rfl⟩
  | cksum =>
    exact ⟨_, (step_of_symbol hr (window_cksum ha hs) (decode_tx _ _) hb).trans (exec_txClass _ s),
      .checksumByte hr ha hs rfl⟩
  | stop => exact ⟨_, row (by simp [State.window, ha, hs]), .framer hr ha (by simp [hs]) (by simp [hs]) rfl⟩
  | done => exact ⟨_, row (by simp [State.window, ha, hs]), .framer hr ha (by simp [hs]) (by simp [hs]) rfl⟩

/-- `ExpectStart`, the same in both machines of DECODE. -/
theorem step_cases_expectStart {s : State} (hr : s.resetReq = false)
    (ha : s.active = .decoding ∨ s.active = .stagedDecoding) (hs : s.dstate = .expectStart) :
    ∃ t, step s = .next t ∧ StepCase s t := by
  have hw : s.window = some (.rxStart, s.mem.input.drop s.cursor) :=
    ha.elim (fun h => window_expectStart h hs) (fun h => window_staged_expectStart h hs)
  have hb : s.active ≠ .idle := by rcases ha with h | h <;> simp [h]
  cases hm : s.mem.input.drop s.cursor with
  | nil =>
    exact ⟨_, step_of_reject hr hw (by rw [hm]; rfl), .noStart hr ha hs (by simp [hm]) rfl⟩
  | cons b rest =>
    by_cases hf : b = FLAG
    · subst hf
      exact ⟨_, (step_of_symbol (i := .rxStart) hr hw (by rw [hm]; rfl) hb).trans rfl, .start hr ha hs rest hm rfl⟩
    · exact ⟨_, step_of_reject hr hw (by rw [hm]; exact decode_rxStart_other hf _),
        .noStart hr ha hs (by simp [hm, hf]) rfl⟩

/-- The deframer. -/
theorem step_cases_decoding {s : State} (hr : s.resetReq = false) (ha : s.active = .decoding) :
    ∃ t, step s = .next t ∧ StepCase s t := by
  have hb : s.active ≠ .idle := by simp [ha]
  have one : ∀ b, s.rxBytes [b] = s.deframe b := fun b => State.rxBytes_decoding ha
  have two : ∀ v, s.rxBytes [ESC, v] = (s.deframe ESC).deframe v := fun v => State.rxBytes_decoding ha
  by_cases h1 : s.dstate = .expectStart
  · exact step_cases_expectStart hr (.inl ha) h1
  by_cases h2 : s.dstate = .readingBody
  · have hw := window_readingBody ha h2
    cases hm : s.mem.input.drop s.cursor with
    | nil =>
      refine ⟨_, step_of_reject (e := .noStop) hr hw ?_, .noStop hr (.inl ha) h2 hm rfl⟩
      rw [hm]
      cases s.esc <;> cases s.pairs <;> rfl
    | cons b rest =>
      rw [hm] at hw
      have single : ∀ {i : Instr} {r : List Byte} {c : Ctx}, s.window = some (c, b :: rest) →
          decode c (b :: rest) = .ok (i, r) → exec i s = .next (s.rxBytes [b]) →
          ∃ t, step s = .next t ∧ StepCase s t := fun hw hd hx =>
        ⟨_, (step_of_symbol hr hw hd hb).trans (hx.trans (by rw [one])), .bodyByte hr ha h2 b rest hm rfl⟩
      cases he : s.esc with
      | true =>
        simp only [he, if_true] at hw
        exact single hw (decode_rxEscaped _ _) (exec_rxEscapedClass b s)
      | false =>
        cases hp : s.pairs with
        | false =>
          simp only [he, hp, Bool.false_eq_true, if_false] at hw
          exact single hw (decode_rxBody _ _) (exec_rxBodyClass b s)
        | true =>
          simp only [he, hp, Bool.false_eq_true, if_false, if_true] at hw
          have hd := decode_rxPairs b rest
          by_cases hE : b = ESC
          · subst hE
            cases hn : operandInBody rest with
            | none =>
              rw [hn] at hd
              exact single hw hd (exec_rxBodyClass ESC s)
            | some v =>
              rw [hn, pairFirst_pair] at hd
              cases rest with
              | nil => cases hn
              | cons v' rest' =>
                have hv : v' ≠ FLAG ∧ v' = v := by
                  simp only [operandInBody] at hn
                  split at hn
                  · cases hn
                  · next hf => exact ⟨by simpa using hf, by injection hn⟩
                obtain ⟨hv, rfl⟩ := hv
                exact ⟨_, (step_of_symbol hr hw hd hb).trans ((exec_pairClass v' s).trans (by rw [two])),
                  .bodyPair hr ha h2 hp he v' rest' hm hv rfl⟩
          · rw [pairFirst_other hE] at hd
            exact single hw hd (exec_rxBodyClass b s)
  · exact ⟨_, step_of_sequence hr (window_decoder_closed ha h1 h2) (by simp [State.sequence, ha]),
      .deframer hr ha h1 h2 rfl⟩

/-- The state machine of R121. -/
theorem step_cases_staged {s : State} (hr : s.resetReq = false) (ha : s.active = .stagedDecoding) :
    ∃ t, step s = .next t ∧ StepCase s t := by
  have hb : s.active ≠ .idle := by simp [ha]
  have row : s.window = none → step s = .next s.stagedRow := fun hw =>
    step_of_sequence hr hw (by simp [State.sequence, ha])
  by_cases h1 : s.dstate = .expectStart
  · exact step_cases_expectStart hr (.inr ha) h1
  by_cases h2 : s.dstate = .readingBody
  · cases hm : s.mem.input.drop s.cursor with
    | nil =>
      exact ⟨_, step_of_reject hr (window_staged_end ha h2 hm) decode_rxBody_nil, .noStop hr (.inr ha) h2 hm rfl⟩
    | cons b rest =>
      by_cases hf : b = FLAG
      · subst hf
        exact ⟨_, (step_of_symbol hr (window_staged_flag ha h2 hm) (decode_rxBody _ _) hb).trans
          ((exec_rxBodyClass FLAG s).trans (by rw [State.rxBytes_stagedDecoding ha]; rfl)),
          .stagedByte hr ha h2 FLAG rest hm rfl⟩
      · refine ⟨_, (row (window_staged_byte ha h2 hm hf)).trans ?_, .stagedByte hr ha h2 b rest hm rfl⟩
        have hr' : bufRead s.mem.input s.cursor = some b := by
          have h := congrArg List.head? hm
          rw [List.head?_drop] at h
          exact h
        simp [State.stagedRow, h2, hr']
  · exact ⟨_, row (window_staged_closed ha h1 h2), .stagedEnd hr ha h1 h2 rfl⟩

/-- The Stuffer on its own. -/
theorem step_cases_stuffing {s : State} (hr : s.resetReq = false) (ha : s.active = .stuffing) :
    ∃ t, step s = .next t ∧ StepCase s t := by
  by_cases hc : s.cursor < s.operand.length
  · have hw := window_stuffing ha hc
    rw [List.drop_eq_getElem_cons hc] at hw
    exact ⟨_, (step_of_symbol hr hw (decode_tx _ _) (by simp [ha])).trans (exec_txClass _ s), .stuff hr ha hc rfl⟩
  · exact ⟨_, step_of_sequence hr (by simp [State.window, ha]; omega) (by simp [State.sequence, ha]),
      .stuffEnd hr ha (by omega) rfl⟩

/-- The Unstuffer on its own. -/
theorem step_cases_unstuffing {s : State} (hr : s.resetReq = false) (ha : s.active = .unstuffing) :
    ∃ t, step s = .next t ∧ StepCase s t := by
  have hb : s.active ≠ .idle := by simp [ha]
  by_cases hc : s.cursor < s.operand.length
  · have hw := window_unstuffing ha hc
    cases hm : s.operand.drop s.cursor with
    | nil => exact absurd (List.drop_eq_nil_iff.1 hm) (by omega)
    | cons b rest =>
      rw [hm] at hw
      have single : ∀ {i : Instr} {r : List Byte} {c : Ctx}, s.window = some (c, b :: rest) →
          decode c (b :: rest) = .ok (i, r) → exec i s = .next (s.rxBytes [b]) →
          ∃ t, step s = .next t ∧ StepCase s t := fun hw hd hx =>
        ⟨_, (step_of_symbol hr hw hd hb).trans hx, .unstuffByte hr ha b rest hm rfl⟩
      cases he : s.esc with
      | true =>
        simp only [he, if_true] at hw
        exact single hw (decode_unstuffOperand _ _) rfl
      | false =>
        cases hp : s.pairs with
        | false =>
          simp only [he, hp, Bool.false_eq_true, if_false] at hw
          exact single hw (decode_unstuff _ _) (exec_rxClass b s)
        | true =>
          simp only [he, hp, Bool.false_eq_true, if_false, if_true] at hw
          have hd := decode_unstuffPairs b rest
          by_cases hE : b = ESC
          · subst hE
            cases rest with
            | nil => exact single hw hd (exec_rxClass ESC s)
            | cons v rest' =>
              rw [List.head?_cons, pairFirst_pair] at hd
              exact ⟨_, (step_of_symbol hr hw hd hb).trans (exec_pairClass v s),
                .unstuffPair hr ha hp he v rest' hm rfl⟩
          · rw [pairFirst_other hE] at hd
            exact single hw hd (exec_rxClass b s)
  · exact ⟨_, step_of_sequence hr (by simp [State.window, ha]; omega) (by simp [State.sequence, ha]),
      .unstuffEnd hr ha (by omega) rfl⟩

/-- EVERY STEP ANSWERS A NEXT STATE, under exactly one of the cases above. -/
theorem step_cases (s : State) : ∃ t, step s = .next t ∧ StepCase s t := by
  cases hr : s.resetReq with
  | true => exact ⟨_, step_of_row (State.fetch_reset hr), .reset hr rfl⟩
  | false =>
    cases ha : s.active with
    | idle => exact step_cases_idle hr ha
    | encoding => exact step_cases_encoding hr ha
    | decoding => exact step_cases_decoding hr ha
    | stagedDecoding => exact step_cases_staged hr ha
    | checksumming =>
      exact ⟨_, step_of_sequence hr (by simp [State.window, ha]) (by simp [State.sequence, ha]), .checksum hr ha rfl⟩
    | stuffing => exact step_cases_stuffing hr ha
    | unstuffing => exact step_cases_unstuffing hr ha

/-- The inversion of a step. -/
theorem stepCase_of_step {s t : State} (h : step s = .next t) : StepCase s t := by
  obtain ⟨t', h', hc⟩ := step_cases s
  rw [h] at h'
  cases h'
  exact hc

end Sys2Proof.Machine
end

