-- ==== Sys2Proof/Tests/Slice0.lean ====
section
/-! SUPPORT. The model's own tests. Expected values come from spec/95_test_vectors.md, from the encodings of
spec/30_encoding.md and from the tables of spec/44_byte_serial_datapaths.md, with `PMAX = 8` unless said. -/

namespace Sys2Proof.Tests

open Sys2Proof Sys2Proof.Machine

/-! ## Small states -/

/-- An idle instance with a given `PMAX`. -/
def idleAt (pmax : Nat) : State := { State.reset with pmax := pmax }

/-- An idle instance whose caller has these requests to issue. -/
def asking (pmax : Nat) (q : List Command) : State := { idleAt pmax with pending := q }

/-- ENCODE in progress. -/
def framing (t : TState) (acc : Byte) (inp : List Byte) (cursor : Nat) (out : List Byte) (work : List Byte := []) :
    State :=
  { idleAt 8 with
    active := .encoding, tstate := t, acc := acc, cursor := cursor, mem := { input := inp, work := work, output := out } }

/-- DECODE in progress in the deframer. -/
def deframing (d : DState) (esc pairs : Bool) (inp : List Byte) (cursor : Nat) (work : List Byte)
    (out : List Byte := []) : State :=
  { idleAt 8 with
    active := .decoding, dstate := d, esc := esc, pairs := pairs, cursor := cursor,
    mem := { input := inp, work := work, output := out } }

/-- DECODE in progress in the state machine of R121. -/
def staging (d : DState) (esc : Bool) (inp : List Byte) (cursor : Nat) (work : List Byte) (out : List Byte := []) :
    State :=
  { deframing d esc false inp cursor work out with active := .stagedDecoding }

/-- A unit on its own in progress. -/
def alone (a : Activity) (esc pairs : Bool) (x : List Byte) (cursor : Nat) (out : List Byte) : State :=
  { idleAt 8 with active := a, esc := esc, pairs := pairs, operand := x, cursor := cursor, emitted := out }

/-- `m` bytes of the value 0x41. -/
def fill (m : Nat) : List Byte := List.replicate m 0x41#8

/-! ## Well-formedness: an ill-formed term for each check, and its neighbours -/

theorem test_wf_txLiteral_reserved :
    (Instr.txLiteral 0x7E#8).wf = false ∧ (Instr.txLiteral 0x7D#8).wf = false ∧
    (Instr.txLiteral 0x11#8).wf = false ∧ (Instr.txLiteral 0x13#8).wf = false ∧
    (Instr.txLiteral 0x12#8).wf = true ∧ (Instr.txLiteral 0x5E#8).wf = true := by decide

theorem test_wf_rxLiteral_marker :
    (Instr.rxLiteral 0x7D#8).wf = false ∧ (Instr.rxLiteral 0x7E#8).wf = true := by decide

theorem test_wf_escPair_canonical :
    (Instr.escPair 0x5E#8).wf = false ∧ (Instr.escPair 0x5D#8).wf = false ∧
    (Instr.escPair 0x31#8).wf = false ∧ (Instr.escPair 0x33#8).wf = false ∧
    (Instr.escPair 0x7D#8).wf = true := by decide

/-! ## Decoding: words written out from the spec's encodings -/

/-- R58: selector 0 is ENCODE, 1 is DECODE, and the operand follows. -/
theorem test_decode_requests :
    decodeTableWord 8 0b00000000 = some (.encode []) ∧ decodeTableWord 8 0b00000001 = some (.decode []) ∧
    decodeTableWord 1 0b1 = some (.decode []) ∧
    decode .request [0x00#8, 0x01#8, 0x02#8] = .ok (.encode [0x01#8, 0x02#8], []) ∧
    decode .request [0x01#8, 0x7E#8] = .ok (.decode [0x7E#8], []) ∧
    decode .request [0x02#8] = .error .badSelector := by decide

/-- R58: the internal units have no selector value. -/
theorem test_internal_units_have_no_word :
    encode (.checksum []) = none ∧ encode (.stuff []) = none ∧ encode (.unstuff []) = none := by decide

/-- R53: the transmit-side byte classes. -/
theorem test_decode_transmit :
    decodeTableWord 8 0b01111110 = some .txEscFlag ∧ decodeTableWord 8 0b01111101 = some .txEscEsc ∧
    decodeTableWord 8 0b00010001 = some .txEscXon ∧ decodeTableWord 8 0b00010011 = some .txEscXoff ∧
    decodeTableWord 8 0b01011110 = some (.txLiteral 0x5E#8) ∧ decode .tx [0x00#8] = .ok (.txLiteral 0x00#8, []) ∧
    decode .tx [0x01#8] = .ok (.txLiteral 0x01#8, []) := by decide

/-- R54: the receive-side symbols, each where it arrives. -/
theorem test_decode_receive :
    decode .rxStart [0b01111110#8, 0x41#8] = .ok (.rxStart, [0x41#8]) ∧
    decode .rxBody [0b01111110#8] = .ok (.rxStop, []) ∧ decode .rxEscaped [0b01111110#8] = .ok (.rxStop, []) ∧
    decode .rxBody [0b01111101#8] = .ok (.rxEsc, []) ∧ decode .unstuff [0b01111101#8] = .ok (.rxEsc, []) ∧
    decode .rxBody [0b00010001#8] = .ok (.rxLiteral 0x11#8, []) ∧
    decode .unstuff [0b01111110#8] = .ok (.rxLiteral 0x7E#8, []) ∧
    decode .rxEscaped [0b01111101#8] = .ok (.rxOperand 0x7D#8, []) ∧
    decode .unstuffOperand [0b01111110#8] = .ok (.rxOperand 0x7E#8, []) ∧
    decode .rxStart [0b01111111#8] = .error .missingStart := by decide

/-- R55: the escape pairs, first byte in bits 15..8. -/
theorem test_decode_pairs :
    decodeTableWord 16 0b0111110101011110 = some .escPairFlag ∧
    decodeTableWord 16 0b0111110101011101 = some .escPairEsc ∧
    decodeTableWord 16 0b0111110100110001 = some .escPairXon ∧
    decodeTableWord 16 0b0111110100110011 = some .escPairXoff ∧
    decodeTableWord 16 0b0111110111011111 = some (.escPair 0xDF#8) ∧
    decodeTableWord 16 0b0111111001011110 = none := by decide

/-- R63: in a body a marker and a delimiter are no pair; a marker at the end of the input neither. -/
theorem test_decode_marker_before_delimiter :
    decode .rxPairs [0x7D#8, 0x7E#8] = .ok (.rxEsc, [0x7E#8]) ∧ decode .rxPairs [0x7D#8] = .ok (.rxEsc, []) ∧
    decode .rxPairs [0x7D#8, 0x5E#8, 0x01#8] = .ok (.escPairFlag, [0x01#8]) ∧
    decode .unstuffPairs [0x7D#8, 0x7E#8] = .ok (.escPair 0x7E#8, []) := by decide

/-- 95_test_vectors S1: the wire frame of the payload 00 7E 11. -/
theorem test_decode_frame :
    decode .frame [0x7E#8, 0x00#8, 0x7D#8, 0x5E#8, 0x7D#8, 0x31#8, 0x70#8, 0x7E#8, 0x99#8] =
      .ok (.frame [0x00#8, 0x7E#8, 0x11#8], [0x99#8]) := by decide

/-! ## The whole operations -/

/-- S1 and section 5, a payload of exactly `PMAX` bytes and of one more. -/
theorem test_encode_vectors :
    step (asking 8 [.request 0#1 [0x00#8, 0x7E#8, 0x11#8]]) =
      .next { idleAt 8 with
        outcome := some (.ok [0x7E#8, 0x00#8, 0x7D#8, 0x5E#8, 0x7D#8, 0x31#8, 0x70#8, 0x7E#8]) } ∧
    step (asking 0 [.request 0#1 []]) = .next { idleAt 0 with outcome := some (.ok [0x7E#8, 0xFF#8, 0x7E#8]) } ∧
    step (asking 1 [.request 0#1 [0x81#8]]) =
      .next { idleAt 1 with outcome := some (.ok [0x7E#8, 0x81#8, 0x7D#8, 0x5E#8, 0x7E#8]) } ∧
    step (asking 1 [.request 0#1 [0x00#8, 0x00#8]]) =
      .next { idleAt 1 with outcome := some (.error .capacityExceeded) } := by
  refine ⟨rfl, rfl, rfl, rfl⟩

/-- Section 6: one vector for each outcome, at the precedences that matter. -/
theorem test_decode_vectors :
    decodeFrame 8 [0x7E#8, 0x00#8, 0x7D#8, 0x5E#8, 0x7D#8, 0x31#8, 0x70#8, 0x7E#8] =
      .ok [0x00#8, 0x7E#8, 0x11#8] ∧
    decodeFrame 8 [] = .error .missingStartDelimiter ∧
    decodeFrame 8 [0x7E#8, 0x01#8, 0x7D#8] = .error .unterminatedFrame ∧
    decodeFrame 8 [0x7E#8, 0x7D#8, 0x7E#8] = .error .truncatedEscape ∧
    decodeFrame 8 [0x7E#8, 0x7E#8, 0x00#8, 0xFF#8, 0x7E#8] = .error .emptyBody ∧
    decodeFrame 8 [0x7E#8, 0x7D#8, 0x7D#8, 0x7E#8] = .error (.checksumMismatch 0xFF#8 0x5D#8) ∧
    decodeFrame 8 [0x7E#8, 0x01#8, 0x02#8, 0x03#8, 0xF8#8, 0x7E#8] =
      .error (.checksumMismatch 0xF9#8 0xF8#8) ∧
    decodeFrame 1 [0x7E#8, 0xFF#8, 0x7E#8, 0x99#8, 0x7E#8] = .ok [] := by decide

/-- R170: the numeric codes of the outcomes. -/
theorem test_codes :
    (Result.ok []).code = 0 ∧ (Result.error .capacityExceeded).code = 1 ∧
    (Result.error .missingStartDelimiter).code = 2 ∧ (Result.error .unterminatedFrame).code = 3 ∧
    (Result.error .truncatedEscape).code = 4 ∧ (Result.error .emptyBody).code = 5 ∧
    (Result.error (.checksumMismatch 0x00#8 0x01#8)).code = 6 := by decide

/-- Section 2: a wrap, a reserved result, the empty sequence. -/
theorem test_checksum_vectors :
    checksum [] = 0xFF#8 ∧ checksum [0x80#8, 0x80#8] = 0xFF#8 ∧ checksum [0xFF#8, 0xFF#8] = 0x01#8 ∧
    checksum [0x00#8, 0x7E#8, 0x11#8] = 0x70#8 ∧ checksum [0x81#8] = 0x7E#8 ∧ checksum [0xEC#8] = 0x13#8 := by decide

/-- A stand-alone unit hands over its result and delivers no outcome. -/
theorem test_units_step :
    step (asking 8 [.unit .checksum [0x00#8, 0x7E#8, 0x11#8]]) =
      .next { idleAt 8 with unitOut := some (.byte 0x70#8) } ∧
    step (asking 8 [.unit .stuff [0x7D#8, 0x5E#8]]) =
      .next { idleAt 8 with unitOut := some (.bytes [0x7D#8, 0x5D#8, 0x5E#8]) } ∧
    step (asking 8 [.unit .unstuff [0x7D#8, 0x7E#8]]) = .next { idleAt 8 with unitOut := some (.bytes [0x5E#8]) } ∧
    step (asking 8 [.unit .unstuff [0x01#8, 0x7D#8]]) =
      .next { idleAt 8 with unitOut := some (.error .truncatedEscape) } ∧
    step (asking 8 [.frame [0xEE#8]]) =
      .next { idleAt 8 with unitOut := some (.bytes [0x7E#8, 0xEE#8, 0x7D#8, 0x31#8, 0x7E#8]) } := by
  refine ⟨rfl, rfl, rfl, rfl, rfl⟩

/-- R208, U3: a busy instance refuses a request. -/
theorem test_busy : exec (.encode []) (framing .data 0x00#8 [] 0 [0x7E#8]) = .refused .busy := rfl

/-! ## The byte-serial transmit side -/

/-- R150, T_DATA: the byte enters the sum and `W` unescaped and `OUT` escaped. -/
theorem test_transmit_payload :
    step (framing .data 0xF0#8 [0x01#8, 0x7E#8] 1 [0x7E#8, 0x01#8] [0x01#8]) =
      .next (framing .data 0x6E#8 [0x01#8, 0x7E#8] 2 [0x7E#8, 0x01#8, 0x7D#8, 0x5E#8] [0x01#8, 0x7E#8]) ∧
    step (framing .data 0x00#8 [0x7D#8] 0 [0x7E#8]) =
      .next (framing .data 0x7D#8 [0x7D#8] 1 [0x7E#8, 0x7D#8, 0x5D#8] [0x7D#8]) ∧
    step (framing .data 0x00#8 [0x11#8] 0 [0x7E#8]) =
      .next (framing .data 0x11#8 [0x11#8] 1 [0x7E#8, 0x7D#8, 0x31#8] [0x11#8]) ∧
    step (framing .data 0x00#8 [0x13#8] 0 [0x7E#8]) =
      .next (framing .data 0x13#8 [0x13#8] 1 [0x7E#8, 0x7D#8, 0x33#8] [0x13#8]) ∧
    step (framing .data 0x00#8 [0x5E#8] 0 [0x7E#8]) =
      .next (framing .data 0x5E#8 [0x5E#8] 1 [0x7E#8, 0x5E#8] [0x5E#8]) := by
  refine ⟨rfl, rfl, rfl, rfl, rfl⟩

/-- R150, T_CKSUM: sum 0x81 gives the checksum 0x7E, which is escaped and enters no sum. R18: `W` is then the payload
followed by the checksum byte. -/
theorem test_transmit_checksum :
    step (framing .cksum 0x81#8 [0x81#8] 1 [0x7E#8, 0x81#8] [0x81#8]) =
      .next (framing .stop 0x81#8 [0x81#8] 1 [0x7E#8, 0x81#8, 0x7D#8, 0x5E#8] [0x81#8, 0x7E#8]) ∧
    step (framing .cksum 0x00#8 [] 0 [0x7E#8]) = .next (framing .stop 0x00#8 [] 0 [0x7E#8, 0xFF#8] [0xFF#8]) := by
  refine ⟨rfl, rfl⟩

/-- R150, T_START, the exit from T_DATA, T_STOP and T_DONE. -/
theorem test_framer_rows :
    step (framing .start 0x00#8 [] 0 []) = .next (framing .data 0x00#8 [] 0 [0x7E#8]) ∧
    step (framing .data 0x00#8 [] 0 [0x7E#8]) = .next (framing .cksum 0x00#8 [] 0 [0x7E#8]) ∧
    step (framing .stop 0x00#8 [] 0 [0x7E#8, 0xFF#8]) =
      .next (framing .done 0x00#8 [] 0 [0x7E#8, 0xFF#8, 0x7E#8]) ∧
    step (framing .done 0x00#8 [] 0 [0x7E#8, 0xFF#8, 0x7E#8]) =
      .next { idleAt 8 with outcome := some (.ok [0x7E#8, 0xFF#8, 0x7E#8]) } := by
  refine ⟨rfl, rfl, rfl, rfl⟩

/-! ## The byte-serial receive side -/

/-- R155: the start delimiter, an escape pair in two bytes, and the terminating delimiter. -/
theorem test_receive_bytes :
    step (deframing .expectStart false false [0x7E#8] 0 []) =
      .next (deframing .readingBody false false [0x7E#8] 1 []) ∧
    step (deframing .readingBody false false [0x7E#8, 0x7D#8] 1 []) =
      .next (deframing .readingBody true false [0x7E#8, 0x7D#8] 2 []) ∧
    step (deframing .readingBody true false [0x7E#8, 0x7D#8, 0x7D#8] 2 []) =
      .next (deframing .readingBody false false [0x7E#8, 0x7D#8, 0x7D#8] 3 [0x5D#8]) ∧
    step (deframing .readingBody false false [0x7E#8, 0x13#8] 1 []) =
      .next (deframing .readingBody false false [0x7E#8, 0x13#8] 2 [0x13#8]) ∧
    step (deframing .readingBody false false [0x7E#8, 0x7E#8] 1 []) =
      .next (deframing .expectEnd false false [0x7E#8, 0x7E#8] 2 []) := by
  refine ⟨rfl, rfl, rfl, rfl, rfl⟩

/-- R155, first and second point of care: the delimiter before the open escape, the end of input before it too. -/
theorem test_receive_errors :
    step (deframing .readingBody true false [0x7E#8, 0x7D#8, 0x7E#8] 2 []) =
      .next { deframing .failed true false [0x7E#8, 0x7D#8, 0x7E#8] 2 [] with
        outcome := some (.error .truncatedEscape) } ∧
    step (deframing .readingBody true false [0x7E#8, 0x7D#8] 2 []) =
      .next { deframing .failed true false [0x7E#8, 0x7D#8] 2 [] with
        outcome := some (.error .unterminatedFrame) } ∧
    step (deframing .expectStart false false [0x7F#8] 0 []) =
      .next { deframing .failed false false [0x7F#8] 0 [] with
        outcome := some (.error .missingStartDelimiter) } := by
  refine ⟨rfl, rfl, rfl⟩

/-- R55, R57: an escape pair taken as one symbol. -/
theorem test_receive_pairs :
    step (deframing .readingBody false true [0x7E#8, 0x7D#8, 0x5E#8] 1 []) =
      .next (deframing .readingBody false true [0x7E#8, 0x7D#8, 0x5E#8] 3 [0x7E#8]) ∧
    step (deframing .readingBody false true [0x7E#8, 0x7D#8, 0x5D#8] 1 []) =
      .next (deframing .readingBody false true [0x7E#8, 0x7D#8, 0x5D#8] 3 [0x7D#8]) ∧
    step (deframing .readingBody false true [0x7E#8, 0x7D#8, 0x31#8] 1 []) =
      .next (deframing .readingBody false true [0x7E#8, 0x7D#8, 0x31#8] 3 [0x11#8]) ∧
    step (deframing .readingBody false true [0x7E#8, 0x7D#8, 0x33#8] 1 []) =
      .next (deframing .readingBody false true [0x7E#8, 0x7D#8, 0x33#8] 3 [0x13#8]) ∧
    step (deframing .readingBody false true [0x7E#8, 0x7D#8, 0xDF#8] 1 []) =
      .next (deframing .readingBody false true [0x7E#8, 0x7D#8, 0xDF#8] 3 [0xFF#8]) := by
  refine ⟨rfl, rfl, rfl, rfl, rfl⟩

/-- R155, the three `ExpectEnd` rows; R157's mismatch; R18: `OUT` holds the payload; R12: `acc` holds its sum, 0x8F, whose
complement 0x70 is compared. -/
theorem test_expectEnd :
    step (deframing .expectEnd false false [0x7E#8, 0x7E#8] 2 []) =
      .next { deframing .failed false false [0x7E#8, 0x7E#8] 2 [] with outcome := some (.error .emptyBody) } ∧
    step (deframing .expectEnd false false [] 0 [0x00#8, 0x7E#8, 0x11#8, 0x71#8]) =
      .next { deframing .failed false false [] 0 [0x00#8, 0x7E#8, 0x11#8, 0x71#8] with
        acc := 0x8F#8, outcome := some (.error (.checksumMismatch 0x70#8 0x71#8)) } ∧
    step (deframing .expectEnd false false [] 0 [0x00#8, 0x7E#8, 0x11#8, 0x70#8]) =
      .next { deframing .done false false [] 0 [0x00#8, 0x7E#8, 0x11#8, 0x70#8] [0x00#8, 0x7E#8, 0x11#8] with
        acc := 0x8F#8, outcome := some (.ok [0x00#8, 0x7E#8, 0x11#8]) } := by
  refine ⟨rfl, rfl, rfl⟩

/-! ## The state machine of R121 -/

/-- R121: the start delimiter; the body is collected as it is, a marker among it; the first `0x7E` ends it, also right
after a marker (R122); the end of the input is no end of the body. -/
theorem test_staged_body :
    step (staging .expectStart false [0x7E#8] 0 []) = .next (staging .readingBody false [0x7E#8] 1 []) ∧
    step (staging .readingBody false [0x7E#8, 0x7D#8, 0x5E#8] 1 []) =
      .next (staging .readingBody false [0x7E#8, 0x7D#8, 0x5E#8] 2 [0x7D#8]) ∧
    step (staging .readingBody false [0x7E#8, 0x7D#8, 0x5E#8] 2 [0x7D#8]) =
      .next (staging .readingBody false [0x7E#8, 0x7D#8, 0x5E#8] 3 [0x7D#8, 0x5E#8]) ∧
    step (staging .readingBody false [0x7E#8, 0x7D#8, 0x7E#8] 2 [0x7D#8]) =
      .next (staging .expectEnd false [0x7E#8, 0x7D#8, 0x7E#8] 3 [0x7D#8]) ∧
    step (staging .readingBody false [0x7E#8, 0x7D#8] 2 [0x7D#8]) =
      .next { staging .failed false [0x7E#8, 0x7D#8] 2 [0x7D#8] with outcome := some (.error .unterminatedFrame) } := by
  refine ⟨rfl, rfl, rfl, rfl, rfl⟩

/-- R121, the four `ExpectEnd` rows in the order written: a truncated escape before the empty body, with what UNSTUFF
returned before it in `W` (R95's `out`); the stuffed body of R120's worked example gives way to the unstuffed one, and
`OUT` holds the payload (R18) and `acc` its sum (R12). -/
theorem test_staged_expectEnd :
    step (staging .expectEnd false [] 0 [0x7D#8]) =
      .next { staging .failed true [] 0 [] with outcome := some (.error .truncatedEscape) } ∧
    step (staging .expectEnd false [] 0 [0x01#8, 0x7D#8]) =
      .next { staging .failed true [] 0 [0x01#8] with outcome := some (.error .truncatedEscape) } ∧
    step (staging .expectEnd false [] 0 []) =
      .next { staging .failed false [] 0 [] with outcome := some (.error .emptyBody) } ∧
    step (staging .expectEnd false [] 0 [0x7D#8, 0x20#8]) =
      .next { staging .failed false [] 0 [0x00#8] with outcome := some (.error (.checksumMismatch 0xFF#8 0x00#8)) } ∧
    step (staging .expectEnd false [] 0 [0x00#8, 0x7D#8, 0x5E#8, 0x7D#8, 0x31#8, 0x70#8]) =
      .next { staging .done false [] 0 [0x00#8, 0x7E#8, 0x11#8, 0x70#8] [0x00#8, 0x7E#8, 0x11#8] with
        acc := 0x8F#8, outcome := some (.ok [0x00#8, 0x7E#8, 0x11#8]) } := by
  refine ⟨rfl, rfl, rfl, rfl, rfl⟩

/-- R121, R177: the request rows and the end of the operation. -/
theorem test_staged_request_and_end :
    step (asking 8 [.staged [0x7E#8]]) = .next (staging .expectStart false [0x7E#8] 0 []) ∧
    step (asking 8 [.staged (fill 21)]) =
      .next { staging .failed false [] 0 [] with outcome := some (.error .capacityExceeded) } ∧
    step { staging .done false [] 0 [0xFF#8] with outcome := some (.ok []) } =
      .next { idleAt 8 with outcome := some (.ok []) } := by
  refine ⟨rfl, rfl, rfl⟩

/-- R177: after an error the instance is idle in the initial working state, the outcome stays delivered. -/
theorem test_return_from_error :
    step { deframing .failed true false [0x7E#8, 0x7D#8] 2 [0x41#8] with outcome := some (.error .unterminatedFrame) } =
      .next { idleAt 8 with outcome := some (.error .unterminatedFrame) } := rfl

/-! ## The units on their own, byte by byte, and reset -/

/-- R140 `absorb` with a wrap and `read`; R141 `emit`; R142 `take` of 0x7E (D23). -/
theorem test_leaf_steps :
    step { alone .checksumming false false [0x01#8] 0 [] with acc := 0xFF#8 } =
      .next { alone .checksumming false false [0x01#8] 1 [] with acc := 0x00#8 } ∧
    step (alone .checksumming false false [] 0 []) = .next { idleAt 8 with unitOut := some (.byte 0xFF#8) } ∧
    step (alone .stuffing false false [0x13#8] 0 []) = .next (alone .stuffing false false [0x13#8] 1 [0x7D#8, 0x33#8]) ∧
    step (alone .unstuffing false false [0x7E#8] 0 []) = .next (alone .unstuffing false false [0x7E#8] 1 [0x7E#8]) ∧
    step (alone .unstuffing true false [0x7D#8, 0x7E#8] 1 []) =
      .next (alone .unstuffing false false [0x7D#8, 0x7E#8] 2 [0x5E#8]) := by
  refine ⟨rfl, rfl, rfl, rfl, rfl⟩

/-- R200: reset in the middle of an operation abandons it. -/
theorem test_reset_midway :
    step { framing .data 0x55#8 [0x55#8, 0x01#8] 1 [0x7E#8, 0x55#8] with resetReq := true } =
      .next (idleAt 8) := rfl

/-- R20: after reset the block is idle, ready for its first request, and nothing happens before one. -/
theorem test_idle_stays : step (idleAt 8) = .next (idleAt 8) := rfl

/-! ## Witnesses: states and operands that meet the hypotheses of the statements, each clause at a boundary -/

theorem witness_DecodeOfEncodeIsTheInstruction :
    (Instr.txLiteral 0x12#8).wf = true ∧ encode (.txLiteral 0x12#8) = some (.tx, [0x12#8]) ∧
    (Instr.frame [0x7E#8]).wf = true ∧
    encode (.frame [0x7E#8]) = some (.frame, [0x7E#8, 0x7D#8, 0x5E#8, 0x81#8, 0x7E#8]) ∧
    (Instr.escPair 0xFF#8).wf = true ∧ encode (.escPair 0xFF#8) = some (.pair, [0x7D#8, 0xFF#8]) ∧
    (Instr.encode []).wf = true ∧ encode (.encode []) = some (.request, [0x00#8]) ∧ Ctx.tx ≠ .request := by decide

theorem witness_DecodedBytesAreTheEncoding :
    Ctx.rxPairs ≠ .frame ∧ decode .rxPairs [0x7D#8, 0x7D#8, 0x7E#8] = .ok (.escPair 0x7D#8, [0x7E#8]) := by decide

theorem witness_EveryByteIsClassified :
    (0x7F#8 : Byte) ≠ 0x7E#8 ∧ Ctx.unstuffOperand ∈
      [Ctx.tx, .rxBody, .rxPairs, .rxEscaped, .unstuff, .unstuffPairs, .unstuffOperand] := by decide

/-- ChecksumIsComplementOfByteSum, StuffReplacesReservedBytes, UnstuffInvertsStuff, UnstuffByFrontCases,
FrameHasItsFourFields, WholeOperationsRetainNothing and the DECODE statements ask for an idle instance. -/
theorem witness_idle_instance : (idleAt 8).active = .idle ∧ State.reset.active = .idle := ⟨rfl, rfl⟩

theorem witness_ChecksumLaws :
    [0x01#8, 0x02#8, 0x02#8].Perm [0x02#8, 0x02#8, 0x01#8] ∧ byteSum [0xFF#8, 0x00#8] % 256 = 255 ∧
    [0xFF#8, 0x00#8][1]? = some 0x00#8 ∧ 0 < 8 ∧ 7 < 8 ∧ (idleAt 1).active = .idle ∧ 1 ≤ (idleAt 1).pmax := by
  refine ⟨by decide, rfl, rfl, by decide, by decide, rfl, by decide⟩

theorem witness_StuffedAlphabet :
    (stuff [0x00#8, 0x7D#8])[1]? = some ESC ∧ [0x7E#8, 0x11#8] = [0x7E#8] ++ [0x11#8] := by decide

theorem witness_UnstuffInvertsStuff : stuff [0x7E#8] = stuff [0x7E#8] := rfl

/-- Both outcomes of the tail, for a pair and for a literal before it. -/
theorem witness_UnstuffByFrontCases :
    unstuff [0x41#8] = .ok [0x41#8] ∧ unstuff [0x7D#8] = .error .truncatedEscape ∧ (0x7E#8 : Byte) ≠ 0x7D#8 := by
  decide

/-- Runs of length one and zero. -/
theorem witness_UnstuffFailsOnOddEscapeRun :
    trailingEscRun [0x01#8, 0x7D#8] % 2 = 1 ∧ trailingEscRun [] % 2 = 0 ∧
    trailingEscRun [0x7D#8, 0x7D#8] % 2 = 0 := by decide

theorem witness_UnstuffLength : unstuff [0x7D#8, 0x5E#8, 0x41#8] = .ok [0x7E#8, 0x41#8] := rfl

theorem witness_UnstuffAtCuts :
    unstuff [0x7D#8, 0x7D#8] = .ok [0x5D#8] ∧ unstuff [0x41#8] = .ok [0x41#8] ∧
    unstuff [0x7D#8] = .error .truncatedEscape := by decide

theorem witness_AnyOperandIsAccepted : unstuff [0x41#8] = .ok [0x41#8] ∧ unstuff [] = .ok [] := by decide

/-- Its last pair is in the list of results: FRAME of the payload 0xEE, whose checksum is 0x11. -/
theorem witness_WholeOperationsRetainNothing :
    (idleAt 8).active = .idle ∧ frameOf [0xEE#8] = [0x7E#8, 0xEE#8, 0x7D#8, 0x31#8, 0x7E#8] ∧
    (unstuff [0x7D#8]).toUnit = .error .truncatedEscape := by
  refine ⟨rfl, rfl, rfl⟩

theorem witness_FrameLengthLaw : ([0x00#8] : List Byte).length ≤ 1 := by decide

/-- A payload of exactly `PMAX` bytes, and of one more. -/
theorem witness_EncodeGivesFrameOrCapacityExceeded :
    (idleAt 2).active = .idle ∧ (fill 2).length ≤ (idleAt 2).pmax ∧ (idleAt 2).pmax < (fill 3).length := by
  refine ⟨rfl, by decide, by decide⟩

theorem witness_EncodedFramesAreDelimiterSafe :
    encodeFrame 1 [0x7D#8] = .ok [0x7E#8, 0x7D#8, 0x5D#8, 0x82#8, 0x7E#8] ∧
    encodeFrame 2 [0x7D#8] = .ok [0x7E#8, 0x7D#8, 0x5D#8, 0x82#8, 0x7E#8] ∧
    ([0x7E#8, 0x7D#8, 0x5D#8, 0x82#8, 0x7E#8] : List Byte)[1]? = some ESC := by decide

theorem witness_DecodeOfEncodeReturnsThePayload :
    (idleAt 2).active = .idle ∧ ({ idleAt 2 with outcome := some (.ok []) } : State).active = .idle ∧
    (idleAt 2).pmax = ({ idleAt 2 with outcome := some (.ok []) } : State).pmax ∧
    (fill 2).length ≤ (idleAt 2).pmax := by
  refine ⟨rfl, rfl, rfl, by decide⟩

theorem witness_DecodeAcceptsExactly :
    ([0x7E#8, 0xFF#8, 0x7E#8] : List Byte).length ≤ fmax 0 ∧ ([0x7E#8, 0xFF#8, 0x7E#8] : List Byte)[0]? = some FLAG ∧
    isTerminator [0x7E#8, 0xFF#8, 0x7E#8] 2 ∧ unstuff (bodyAt [0x7E#8, 0xFF#8, 0x7E#8] 2) = .ok [0xFF#8] ∧
    byteSum [0xFF#8] % 256 = 255 := by
  refine ⟨by decide, rfl, ⟨by decide, rfl, fun k h1 h2 => ?_⟩, rfl, rfl⟩
  obtain rfl : k = 1 := by omega
  decide

/-- The right-hand side of each cause holds of some input: one byte too many, no start delimiter, none after it, an
open marker, an empty body, and a wrong checksum. -/
theorem witness_DecodeErrorCauses :
    fmax 0 < (fill 5).length ∧ (fill 4)[0]? ≠ some FLAG ∧ ([0x7E#8] : List Byte)[0]? = some FLAG ∧
    trailingEscRun (bodyAt [0x7E#8, 0x7D#8, 0x7E#8] 2) % 2 = 1 ∧ ([0x7E#8, 0x7E#8] : List Byte)[1]? = some FLAG ∧
    unstuff (bodyAt [0x7E#8, 0x00#8, 0x7E#8] 2) = .ok [0x00#8] ∧ checksum [] = 0xFF#8 ∧
    (0xFF#8 : Byte) ≠ 0x00#8 := by decide

theorem witness_TrailingBytesAreIgnored :
    (idleAt 1).active = .idle ∧ FLAG ∉ ([0xFF#8] : List Byte) ∧
    ([0xFF#8] : List Byte).length + 2 + (fill 3).length ≤ fmax (idleAt 1).pmax := by
  refine ⟨rfl, by decide, by decide⟩

theorem witness_FlagIsNeverAnOperandInDecode :
    (idleAt 0).active = .idle ∧ FLAG ∉ ([0x01#8] : List Byte) ∧ trailingEscRun [0x01#8] % 2 = 0 ∧
    ([0x01#8] : List Byte).length + 3 + ([] : List Byte).length ≤ fmax (idleAt 0).pmax ∧
    2 + (fill 2).length ≤ fmax (idleAt 0).pmax := by
  refine ⟨rfl, by decide, by decide, by decide, by decide⟩

/-- At `PMAX = 0` a one-byte payload is decoded: the bound is reached. -/
theorem witness_DecodedPayloadBound :
    decodeFrame 0 [0x7E#8, 0x00#8, 0xFF#8, 0x7E#8] = .ok [0x00#8] ∧ (idleAt 0).active = .idle := ⟨by decide, rfl⟩

theorem witness_BusyInstanceRefusesOperations :
    (framing .start 0x00#8 [] 0 []).active ≠ .idle ∧ (alone .stuffing false false [] 0 []).active ≠ .idle := by decide

theorem witness_OutcomeDependsOnTheRequestOnly :
    (asking 1 [.request 1#1 (fill 9)]).active = .idle ∧
    ({ asking 1 [.serial 1#1 true (fill 9)] with outcome := some (.ok []) } : State).active = .idle ∧
    (asking 1 [.request 1#1 (fill 9)]).resetReq = false ∧
    ({ asking 1 [.serial 1#1 true (fill 9)] with outcome := some (.ok []) } : State).resetReq = false ∧
    (asking 1 [.request 1#1 (fill 9)]).pmax =
      ({ asking 1 [.serial 1#1 true (fill 9)] with outcome := some (.ok []) } : State).pmax := by
  refine ⟨rfl, rfl, rfl, rfl, rfl⟩

/-- `OUT` with room for exactly two bytes and for exactly one, `W` for exactly one. -/
theorem witness_TransmitPayloadByte :
    (framing .data 0x00#8 [0x41#8] 0 (fill 18) (fill 19)).active = .encoding ∧
    (framing .data 0x00#8 [0x41#8] 0 (fill 18) (fill 19)).tstate = .data ∧ (fill 18).length + 2 ≤ fmax 8 ∧
    (Instr.txLiteral 0x41#8).wf = true ∧ (fill 19).length + 1 ≤ fmax 8 := by
  refine ⟨rfl, rfl, by decide, by decide, by decide⟩

theorem witness_TransmitChecksumByte :
    (framing .cksum 0x00#8 [] 0 (fill 18) (fill 19)).active = .encoding ∧
    (framing .cksum 0x00#8 [] 0 (fill 18) (fill 19)).tstate = .cksum ∧ (fill 18).length + 2 ≤ fmax 8 ∧
    (Instr.txLiteral 0xFF#8).wf = true ∧ (fill 19).length + 1 ≤ fmax 8 := by
  refine ⟨rfl, rfl, by decide, by decide, by decide⟩

/-- A stand-alone run; an idle instance; the framer in a phase that takes no byte. -/
theorem witness_StufferAlone :
    (alone .stuffing false false [0x41#8] 0 []).active = .stuffing ∧ (idleAt 8).active ≠ .stuffing ∧
    ¬ ((framing .stop 0x00#8 [] 0 []).active = .encoding ∧
      ((framing .stop 0x00#8 [] 0 []).tstate = .data ∨ (framing .stop 0x00#8 [] 0 []).tstate = .cksum)) ∧
    (Instr.txLiteral 0x41#8).wf = true := by decide

/-- Buffers just full: one byte of room for a two-byte pair, none for one byte. -/
theorem witness_FullBufferGivesCapacityExceeded :
    (framing .data 0x00#8 [0x7E#8] 0 (fill 19)).active = .encoding ∧
    fmax 8 < (framing .data 0x00#8 [0x7E#8] 0 (fill 19)).mem.output.length + (emit 0x7E#8).length ∧
    fmax 8 ≤ (framing .cksum 0x00#8 [] 0 [] (fill 20)).mem.work.length ∧
    fmax 8 ≤ (framing .start 0x00#8 [] 0 (fill 20)).mem.output.length ∧
    (framing .stop 0x00#8 [] 0 (fill 20)).tstate = .stop ∧
    (deframing .readingBody false false [] 0 (fill 20)).dstate = .readingBody ∧
    fmax 8 ≤ (deframing .readingBody false false [] 0 (fill 20)).mem.work.length ∧
    (deframing .readingBody true false [] 0 (fill 20)).esc = true ∧ (0x41#8 : Byte) ≠ 0x7E#8 ∧
    (0x41#8 : Byte) ≠ 0x7D#8 ∧ bufRead (staging .readingBody false [0x41#8] 0 (fill 20)).mem.input 0 = some 0x41#8 := by
  decide

/-- A stuffed body longer than `W`, which no run reaches, whose unstuffed bytes do not fit. -/
theorem witness_FullWorkInExpectEnd :
    (staging .expectEnd false [] 0 (fill 21)).dstate = .expectEnd ∧
    fmax 8 < (takeAll false (staging .expectEnd false [] 0 (fill 21)).mem.work).2.length := by
  refine ⟨rfl, by decide⟩

/-- The last clause: one payload byte and an `OUT` with no room for it. -/
theorem witness_FullOutInExpectEnd :
    (deframing .expectEnd false false [] 0 [0x00#8, 0xFF#8] (fill 20)).mem.work = [0x00#8] ++ [checksum [0x00#8]] ∧
    unstuff (staging .expectEnd false [] 0 [0x7D#8, 0x20#8, 0xFF#8] (fill 20)).mem.work =
      .ok ([0x00#8] ++ [checksum [0x00#8]]) ∧
    fmax 8 < (fill 20).length + ([0x00#8] : List Byte).length ∧ ([0x00#8] : List Byte).length + 1 ≤ fmax 8 := by
  refine ⟨rfl, rfl, by decide, by decide⟩

theorem witness_BufferReadsAndPushes : (fill 3).length < 4 ∧ 4 ≤ (fill 4).length ∧ 0 < (fill 1).length := by decide

theorem witness_TransmitFrame :
    Instr.txEscXon ∈ [Instr.txEscFlag, .txEscEsc, .txEscXon, .txEscXoff, .txLiteral 0x41#8] ∧
    (framing .data 0x00#8 [0x11#8] 0 (fill 18) (fill 19)).mem.output.length + 2 ≤ fmax 8 ∧
    (framing .data 0x00#8 [0x11#8] 0 (fill 18) (fill 19)).mem.work.length + 1 ≤ fmax 8 ∧
    exec .txEscXon (framing .data 0x00#8 [0x11#8] 0 (fill 1)) =
      .next (framing .data 0x11#8 [0x11#8] 1 (fill 1 ++ [0x7D#8, 0x31#8]) [0x11#8]) := by
  refine ⟨by decide, by decide, by decide, rfl⟩

theorem witness_DelimitersMoveTheDecoder :
    (deframing .expectStart false false [] 0 []).active = .decoding ∧
    (deframing .expectStart false false [] 0 []).dstate = .expectStart ∧
    (deframing .readingBody true false [] 0 []).dstate = .readingBody ∧
    (deframing .readingBody true false [] 0 []).esc = true ∧
    (deframing .readingBody false false [] 0 []).esc = false ∧ (0x7F#8 : Byte) ≠ 0x7E#8 ∧
    (staging .expectStart false [] 0 []).active = .stagedDecoding ∧
    (staging .readingBody true [] 0 []).active = .stagedDecoding := by decide

/-- `W` with room for exactly one byte. -/
theorem witness_BodySymbolsFillTheBody :
    (deframing .readingBody false false [] 0 (fill 19)).active = .decoding ∧
    (deframing .readingBody false false [] 0 (fill 19)).dstate = .readingBody ∧
    (deframing .readingBody true false [] 0 (fill 19)).esc = true ∧ (Instr.rxLiteral 0x11#8).wf = true ∧
    (0x11#8 : Byte) ≠ 0x7E#8 ∧ (fill 19).length + 1 ≤ fmax 8 ∧
    (staging .readingBody false [0x7D#8] 0 (fill 19)).active = .stagedDecoding ∧
    (staging .readingBody false [0x7D#8] 0 (fill 19)).resetReq = false ∧
    bufRead (staging .readingBody false [0x7D#8] 0 (fill 19)).mem.input 0 = some 0x7D#8 := by decide

theorem witness_EscapePairsFillTheBody :
    (deframing .readingBody false true [] 0 (fill 19)).active = .decoding ∧
    (deframing .readingBody false true [] 0 (fill 19)).dstate = .readingBody ∧
    (deframing .readingBody false true [] 0 (fill 19)).esc = false ∧ (fill 19).length + 1 ≤ fmax 8 ∧
    (0x7D#8 : Byte) ≠ 0x7E#8 := by decide

theorem witness_UnstufferAlone :
    (alone .unstuffing false false [0x41#8] 0 []).active = .unstuffing ∧ (idleAt 8).active ≠ .unstuffing ∧
    (idleAt 8).active ≠ .decoding ∧ (idleAt 8).active ≠ .stagedDecoding ∧ (alone .unstuffing false false [] 0 []).esc = false ∧
    (alone .unstuffing true false [] 0 []).esc = true ∧ (Instr.rxLiteral 0x7E#8).wf = true := by decide

theorem witness_ClosedDecoderReadsNothing :
    (deframing .expectEnd false false [] 0 []).active = .decoding ∧
    (deframing .expectEnd false false [] 0 []).dstate = .expectEnd ∧
    (deframing .done false false [] 0 []).dstate = .done ∧
    (deframing .failed false false [] 0 []).dstate = .failed ∧
    (staging .expectEnd false [] 0 []).active = .stagedDecoding ∧
    Instr.escPair 0x00#8 ∈ [Instr.rxStart, .rxStop, .rxEsc, .rxLiteral 0x00#8, .rxOperand 0x00#8, .escPair 0x00#8,
      .escPairFlag, .escPairEsc, .escPairXon, .escPairXoff] := by decide

theorem witness_ReceiveFrame :
    Instr.rxLiteral 0x41#8 ∈ [Instr.rxStart, .rxStop, .rxEsc, .rxLiteral 0x41#8, .rxOperand 0x41#8, .escPair 0x41#8,
      .escPairFlag, .escPairEsc, .escPairXon, .escPairXoff] ∧
    exec (.rxLiteral 0x41#8) (deframing .readingBody false false [] 0 (fill 1)) =
      .next (deframing .readingBody false false [] 1 (fill 2)) ∧
    exec .rxEsc (staging .readingBody false [] 0 (fill 1)) =
      .next (staging .readingBody false [] 1 (fill 1 ++ [0x7D#8])) := by
  refine ⟨by decide, rfl, rfl⟩

theorem witness_StepRunsTheDecodedInstruction :
    (asking 8 [.request 1#1 [0x7E#8]]).resetReq = false ∧
    (asking 8 [.request 1#1 [0x7E#8]]).window = some (.request, [0x01#8, 0x7E#8]) ∧
    decode .request [0x01#8, 0x7E#8] = .ok (.decode [0x7E#8], []) ∧
    (framing .cksum 0x00#8 [] 0 []).window = some (.tx, [0xFF#8]) ∧
    decode .tx [0xFF#8] = .ok (.txLiteral 0xFF#8, []) := by
  refine ⟨rfl, rfl, by decide, rfl, by decide⟩

/-- Each clause's state, at the last byte of its input. -/
theorem witness_StepTakesTheNextSymbol :
    (asking 8 [.unit .stuff []]).pending = .unit .stuff [] :: [] ∧ (asking 8 [.frame []]).active = .idle ∧
    bufRead (framing .data 0x00#8 (fill 2) 1 []).mem.input 1 = some 0x41#8 ∧
    bufRead (deframing .expectStart false false [0x7E#8] 0 []).mem.input 0 = some 0x7E#8 ∧
    bufRead (deframing .readingBody false false [0x7E#8, 0x7E#8] 1 []).mem.input 1 = some 0x7E#8 ∧
    bufRead (deframing .readingBody false true [0x7E#8, 0x7D#8, 0x00#8] 1 []).mem.input 1 = some 0x7D#8 ∧
    bufRead (deframing .readingBody false true [0x7E#8, 0x7D#8, 0x00#8] 1 []).mem.input 2 = some 0x00#8 ∧
    bufRead (deframing .readingBody true false [0x7E#8, 0x7D#8, 0x7D#8] 2 []).mem.input 2 = some 0x7D#8 := by
  refine ⟨rfl, rfl, rfl, rfl, rfl, rfl, rfl, rfl⟩

/-- The clauses for a marker without an operand, and for the units on their own: before `FLAG`, at the end of the input,
with an operand after it, and a byte that is no marker. -/
theorem witness_StepTakesTheNextSymbol_units :
    bufRead (deframing .readingBody false true [0x7E#8, 0x7D#8, 0x7E#8] 1 []).mem.input 2 = some 0x7E#8 ∧
    bufRead (deframing .readingBody false true [0x7E#8, 0x7D#8] 1 []).mem.input 2 = none ∧
    (staging .readingBody false [0x7E#8, 0x7E#8] 1 []).active = .stagedDecoding ∧
    (alone .stuffing false false [0x7E#8] 0 []).active = .stuffing ∧
    bufRead (alone .stuffing false false [0x7E#8] 0 []).operand 0 = some 0x7E#8 ∧
    bufRead (alone .unstuffing false true [0x7D#8] 0 []).operand 0 = some 0x7D#8 ∧
    bufRead (alone .unstuffing false true [0x7D#8] 0 []).operand 1 = none ∧
    bufRead (alone .unstuffing false true [0x7D#8, 0x7E#8] 0 []).operand 1 = some 0x7E#8 ∧
    bufRead (alone .unstuffing true false [0x7D#8, 0x00#8] 1 []).operand 1 = some 0x00#8 ∧
    (0x7E#8 : Byte) ≠ 0x7D#8 := by decide

theorem witness_PlacedWordRunsNext :
    decodeTableWord 8 0x7E = some .txEscFlag ∧ decodeTableWord 16 0x7D5E = some .escPairFlag ∧
    decodeTableWord 8 0x01 = some (.decode []) := by decide

/-- Empty input and a wrong first byte; the end of the input with and without an open escape. -/
theorem witness_MissingDelimitersAreErrors :
    (deframing .expectStart false false [] 0 []).resetReq = false ∧
    bufRead (deframing .expectStart false false [] 0 []).mem.input 0 ≠ some 0x7E#8 ∧
    bufRead (deframing .expectStart false false [0x7F#8] 0 []).mem.input 0 ≠ some 0x7E#8 ∧
    bufRead (deframing .readingBody true false [0x7E#8, 0x7D#8] 2 []).mem.input 2 = none ∧
    bufRead (deframing .readingBody false false [0x7E#8] 1 []).mem.input 1 = none ∧
    (staging .readingBody false [0x7E#8] 1 []).active = .stagedDecoding := by decide

/-- Inputs of exactly the capacity and of one byte more, for both operations. -/
theorem witness_SerialRequestRows :
    (asking 1 [.serial 0#1 false (fill 1)]).active = .idle ∧ (fill 1).length ≤ (idleAt 1).pmax ∧
    (idleAt 1).pmax < (fill 2).length ∧ (fill 6).length ≤ fmax (idleAt 1).pmax ∧
    fmax (idleAt 1).pmax < (fill 7).length ∧
    (asking 1 [.staged (fill 6)]).pending = .staged (fill 6) :: [] := by
  refine ⟨rfl, by decide, by decide, by decide, by decide, rfl⟩

theorem witness_FramerRows :
    (framing .start 0x00#8 [] 0 (fill 19)).active = .encoding ∧ (fill 19).length < fmax 8 ∧
    (framing .data 0x00#8 (fill 2) 2 []).cursor = (framing .data 0x00#8 (fill 2) 2 []).mem.input.length ∧
    (framing .stop 0x00#8 [] 0 (fill 19)).tstate = .stop ∧ (framing .done 0x00#8 [] 0 []).tstate = .done := by decide

theorem witness_DeframerEndRows :
    (deframing .expectEnd false false [] 0 []).mem.work = [] ∧
    (deframing .expectEnd false false [] 0 [0x00#8]).mem.work = [] ++ [0x00#8] ∧ checksum [] ≠ 0x00#8 ∧
    (deframing .expectEnd false false [] 0 [0xFF#8]).mem.work = [] ++ [checksum []] ∧
    (fill 20).length + ([] : List Byte).length ≤ fmax 8 ∧
    (deframing .done false false [] 0 []).dstate = .done ∧ (deframing .failed false false [] 0 []).dstate = .failed := by
  decide

/-- Its clauses for the state machine of R121: an open marker, an empty body, a wrong checksum, and the right one. -/
theorem witness_DeframerEndRows_staged :
    (staging .expectEnd false [] 0 [0x7D#8]).active = .stagedDecoding ∧
    unstuff (staging .expectEnd false [] 0 [0x7D#8]).mem.work = .error .truncatedEscape ∧
    (takeAll false [0x7D#8]).2.length ≤ fmax 8 ∧ ([] : List Byte).length + 1 ≤ fmax 8 ∧
    unstuff (staging .expectEnd false [] 0 []).mem.work = .ok [] ∧
    unstuff (staging .expectEnd false [] 0 [0x7D#8, 0x20#8]).mem.work = .ok ([] ++ [0x00#8]) ∧
    checksum [] ≠ 0x00#8 ∧ unstuff (staging .expectEnd false [] 0 [0xFF#8]).mem.work = .ok ([] ++ [checksum []]) ∧
    (staging .done false [] 0 []).dstate = .done := by decide

theorem witness_ErrorsAreOrdinaryOutcomes : (idleAt 8).active = .idle := rfl

theorem witness_StepKeepsParameterAndRequests :
    (idleAt 8).resetReq = false ∧ (idleAt 8).active = .idle ∧ (idleAt 8).pending = [] ∧
    step (asking 8 [.unit .stuff [], .frame []]) =
      .next { asking 8 [.frame []] with unitOut := some (.bytes []) } := by
  refine ⟨rfl, rfl, rfl, rfl⟩

theorem witness_ResetAbandonsTheOperation :
    ({ framing .data 0x41#8 (fill 2) 1 (fill 2) with resetReq := true } : State).resetReq = true := rfl

/-- The framer in the middle of a payload meets the invariant. -/
theorem witness_Inv_framer : (framing .data 0x7E#8 [0x7E#8, 0x41#8] 1 [0x7E#8, 0x7D#8, 0x5E#8] [0x7E#8]).Inv :=
  ⟨rfl, by decide, rfl, by decide, rfl, rfl, rfl⟩

/-- The deframer with an escape pending meets it. -/
theorem witness_Inv_deframer : (deframing .readingBody true false [0x7E#8, 0x41#8, 0x7D#8, 0x5E#8] 3 [0x41#8]).Inv :=
  ⟨rfl, by decide, rfl, rfl, rfl, by decide, [0x41#8, 0x7D#8], rfl, by decide, rfl⟩

/-- The deframer at the end of the body meets it. -/
theorem witness_Inv_expectEnd : (deframing .expectEnd false true [0x7E#8, 0xFF#8, 0x7E#8] 3 [0xFF#8]).Inv :=
  ⟨rfl, by decide, rfl, rfl, rfl, by decide, [0xFF#8], rfl, by decide, rfl⟩

/-- The state machine of R121 with a stuffed body meets it. -/
theorem witness_Inv_staged : (staging .readingBody false [0x7E#8, 0x41#8, 0x7D#8, 0x5E#8] 3 [0x41#8, 0x7D#8]).Inv :=
  ⟨rfl, by decide, rfl, rfl, rfl, by decide, [0x41#8, 0x7D#8], rfl, by decide, rfl⟩

/-- DECODE after its end meets it: the payload in `OUT`, its sum in `acc`, the unstuffed body in `W`, the outcome
there. -/
theorem witness_Inv_done :
    ({ staging .done false [0x7E#8, 0x01#8, 0xFE#8, 0x7E#8] 4 [0x01#8, 0xFE#8] [0x01#8] with
      acc := 0x01#8, outcome := some (.ok [0x01#8]) } : State).Inv :=
  ⟨rfl, by decide, rfl, rfl, by decide, rfl⟩

/-- A unit on its own meets it. -/
theorem witness_Inv_leaf : (alone .unstuffing true false [0x41#8, 0x7D#8, 0x5E#8] 2 [0x41#8]).Inv :=
  ⟨rfl, by decide, rfl⟩

/-- EveryStepKeepsTheInvariant, NoPushEverOverflows and OutcomeIsWrittenAtTheEnd: a state that meets the invariant, its
operation not ended, and its step. -/
theorem witness_EveryStepKeepsTheInvariant :
    (deframing .readingBody true false [0x7E#8, 0x41#8, 0x7D#8, 0x5E#8] 3 [0x41#8]).Inv ∧
    (deframing .readingBody true false [0x7E#8, 0x41#8, 0x7D#8, 0x5E#8] 3 [0x41#8]).resetReq = false ∧
    step (deframing .readingBody true false [0x7E#8, 0x41#8, 0x7D#8, 0x5E#8] 3 [0x41#8]) =
      .next (deframing .readingBody false false [0x7E#8, 0x41#8, 0x7D#8, 0x5E#8] 4 [0x41#8, 0x7E#8]) :=
  ⟨witness_Inv_deframer, rfl, rfl⟩

/-- NoPushEverOverflows: the framer's clause at a byte that becomes a pair, and both machines of DECODE. -/
theorem witness_NoPushEverOverflows :
    (framing .data 0x7E#8 [0x7E#8, 0x41#8] 1 [0x7E#8, 0x7D#8, 0x5E#8] [0x7E#8]).Inv ∧
    bufRead (framing .data 0x7E#8 [0x7E#8, 0x41#8] 1 [0x7E#8, 0x7D#8, 0x5E#8]).mem.input 1 = some 0x41#8 ∧
    (staging .readingBody false [0x7E#8, 0x41#8, 0x7D#8, 0x5E#8] 3 [0x41#8, 0x7D#8]).Inv ∧
    (deframing .expectEnd false true [0x7E#8, 0xFF#8, 0x7E#8] 3 [0xFF#8]).mem.work = [] ++ [0xFF#8] :=
  ⟨witness_Inv_framer, rfl, witness_Inv_staged, rfl⟩

/-- OutcomeIsWrittenAtTheEnd: the step out of `ExpectEnd` gives the outcome, the step out of `Done` keeps it. -/
theorem witness_OutcomeIsWrittenAtTheEnd :
    (deframing .expectEnd false true [0x7E#8, 0xFF#8, 0x7E#8] 3 [0xFF#8]).Inv ∧
    step (deframing .expectEnd false true [0x7E#8, 0xFF#8, 0x7E#8] 3 [0xFF#8]) =
      .next { deframing .done false true [0x7E#8, 0xFF#8, 0x7E#8] 3 [0xFF#8] with outcome := some (.ok []) } ∧
    step ({ staging .done false [0x7E#8, 0x01#8, 0xFE#8, 0x7E#8] 4 [0x01#8, 0xFE#8] [0x01#8] with
        acc := 0x01#8, outcome := some (.ok [0x01#8]) } : State) =
      .next { idleAt 8 with outcome := some (.ok [0x01#8]) } :=
  ⟨witness_Inv_expectEnd, rfl, rfl⟩

/-- FramerComputesEncode, DeframerComputesDecode and LeafMachinesComputeLeafFunctions: a request of each kind, the
framer's at exactly `PMAX` and one above. -/
theorem witness_MachinesComputeOperations :
    (asking 2 [.serial 0#1 false (fill 2)]).resetReq = false ∧ (asking 2 [.serial 0#1 false (fill 2)]).active = .idle ∧
    (fill 2).length ≤ (idleAt 2).pmax ∧ (idleAt 2).pmax < (fill 3).length ∧
    (asking 2 [.serial 1#1 true (fill 9)]).pending = .serial 1#1 true (fill 9) :: [] ∧
    (asking 2 [.staged (fill 9)]).pending = .staged (fill 9) :: [] ∧
    (asking 2 [.unitSerial .checksum false []]).pending = .unitSerial .checksum false [] :: [] ∧
    (asking 2 [.unitSerial .unstuff true (fill 1)]).pending = .unitSerial .unstuff true (fill 1) :: [] := by
  refine ⟨rfl, rfl, by decide, by decide, rfl, rfl, rfl, rfl⟩

end Sys2Proof.Tests
end

section
/-! PROOFS. What every step keeps (spec/10_state.md): the caller's side, the invariant of `Sys2Proof/Safety.lean` and the
outcome; and that a byte-serial request runs to the outcome of its operation. -/

namespace Sys2Proof.Machine

/-! ## Reset and the decoded instruction -/

/-- Settles O52: every field of `State.reset` is written out in its definition. -/
theorem resetLeavesInitialState : Obligations.ResetLeavesInitialState :=
  ⟨⟨rfl, rfl, rfl, rfl, rfl, rfl, rfl, rfl, rfl⟩, rfl, rfl, rfl, rfl, rfl⟩

/-- An idle block in the initial working state meets the invariant: its buffers are empty. -/
theorem State.inv_of_workingInitial {s : State} (ha : s.active = .idle) (hw : s.workingInitial) : s.Inv := by
  have ⟨_, _, _, _, _, hmem, _⟩ := hw
  refine ⟨State.buffersFit_iff.2 ?_, ?_⟩
  · simp [hmem]
  · rw [ha]
    exact hw

/-- Settles O54. -/
theorem invariantHoldsAtReset : Obligations.InvariantHoldsAtReset :=
  State.inv_of_workingInitial rfl resetLeavesInitialState.1

theorem State.consume_eq (s : State) :
    s.consume = if s.active = .idle then { s with pending := s.pending.tail } else s := by
  unfold State.consume
  split
  · next ha => rw [if_pos ha]
  · next ha => rw [if_neg ha]

/-- Settles O43: `State.fetch` hands the decoded instruction to `exec` at the consumed state. -/
theorem stepRunsTheDecodedInstruction : Obligations.StepRunsTheDecodedInstruction := by
  intro s c bs rest i hr hw hd
  rw [step_of_instr (State.fetch_decoded hr hw hd), State.consume_eq]

/-! ## What a step does to the operation in progress and to the caller's side -/

theorem State.SameOperation.pmax_eq {s t : State} (h : s.SameOperation t) : t.pmax = s.pmax := h.1.1
theorem State.SameOperation.resetReq_eq {s t : State} (h : s.SameOperation t) : t.resetReq = s.resetReq := h.1.2.2
theorem State.SameOperation.active_eq {s t : State} (h : s.SameOperation t) : t.active = s.active := h.2.1
theorem State.SameOperation.unitOut_eq {s t : State} (h : s.SameOperation t) : t.unitOut = s.unitOut := h.2.2.2.2.1
theorem State.SameOperation.input_eq {s t : State} (h : s.SameOperation t) : t.mem.input = s.mem.input :=
  h.2.2.2.2.2

/-- A push that goes on with the operation, or ends it: the block is then idle. -/
theorem State.pushOut_goesOn {bs : List Byte} {k : State → State} {s : State}
    (hk : ∀ t : State, t.SameOperation (k t)) :
    s.SameOperation (s.pushOut bs k) ∨ (s.pushOut bs k).active = .idle :=
  (State.pushOut_keeps hk).imp_right fun h => by rw [h]; rfl

theorem State.framerRow_goesOn (s : State) : s.SameOperation s.framerRow ∨ s.framerRow.active = .idle := by
  unfold State.framerRow
  split
  · exact State.pushOut_goesOn fun t => ⟨⟨rfl, rfl, rfl⟩, rfl, rfl, rfl, rfl, rfl⟩
  · exact .inl ⟨⟨rfl, rfl, rfl⟩, rfl, rfl, rfl, rfl, rfl⟩
  · exact .inl (.refl s)
  · exact State.pushOut_goesOn fun t => ⟨⟨rfl, rfl, rfl⟩, rfl, rfl, rfl, rfl, rfl⟩
  · exact .inr rfl

theorem State.deframerRow_goesOn (s : State) : s.SameOperation s.deframerRow ∨ s.deframerRow.active = .idle := by
  unfold State.deframerRow
  split
  · exact .inl (.refl s)
  · exact .inl (.refl s)
  · exact .inl (State.settle_keeps s)
  · exact .inr rfl
  · exact .inr rfl

theorem State.startUnstuff_keeps (s : State) : s.SameOperation s.startUnstuff :=
  ⟨⟨rfl, rfl, rfl⟩, rfl, rfl, rfl, rfl, rfl⟩

theorem State.stagedRow_goesOn (s : State) : s.SameOperation s.stagedRow ∨ s.stagedRow.active = .idle := by
  unfold State.stagedRow
  split
  · exact .inl (.refl s)
  · split
    · exact .inl (State.collect_keeps _ s)
    · exact .inl (.refl s)
  · exact .inl ((State.startUnstuff_keeps s).trans (State.unstuffBody_keeps _ _))
  · exact .inr rfl
  · exact .inr rfl

theorem State.checksumRow_goesOn (s : State) : s.SameOperation s.checksumRow ∨ s.checksumRow.active = .idle := by
  unfold State.checksumRow
  split
  · exact .inl ⟨⟨rfl, rfl, rfl⟩, rfl, rfl, rfl, rfl, rfl⟩
  · exact .inr rfl

theorem State.txByte_goesOn (d : Byte) (s : State) :
    s.SameOperation (s.txByte d) ∨ (s.txByte d).active = .idle :=
  (State.txByte_keeps d s).imp_right fun h => by rw [h]; rfl

theorem State.txByte_sameCaller (d : Byte) (s : State) : s.SameCaller (s.txByte d) :=
  (State.txByte_keeps d s).elim (·.1) fun h => by rw [h]; exact State.deliver_sameCaller _ s

theorem State.fail_keeps (k : ErrorKind) (s : State) : s.SameOperation (s.fail k) :=
  ⟨⟨rfl, rfl, rfl⟩, rfl, rfl, rfl, rfl, rfl⟩

/-- A step of a busy block goes on with the operation in progress or ends it, and then the block is idle; the
parameter and the caller's side stay either way. -/
theorem stepCase_busy {s t : State} (h : StepCase s t) (hr : s.resetReq = false) (hb : s.active ≠ .idle) :
    s.SameCaller t ∧ (s.SameOperation t ∨ t.active = .idle) := by
  have keeps : s.SameOperation t → s.SameCaller t ∧ (s.SameOperation t ∨ t.active = .idle) := fun h => ⟨h.1, .inl h⟩
  cases h with
  | reset hr' => simp [hr] at hr'
  | idle _ ha | outcome _ ha | unit _ ha | serial _ ha | staged _ ha | unitSerial _ ha => exact absurd ha hb
  | payload _ _ _ _ ht | checksumByte _ _ _ ht | stuff _ _ _ ht =>
    subst ht; exact ⟨State.txByte_sameCaller _ s, State.txByte_goesOn _ s⟩
  | framer _ _ _ _ ht => subst ht; exact ⟨State.framerRow_sameCaller s, State.framerRow_goesOn s⟩
  | noStart _ _ _ _ ht | noStop _ _ _ _ ht => subst ht; exact keeps (State.fail_keeps _ s)
  | bodyByte _ _ _ _ _ _ ht => subst ht; exact keeps (State.deframe_keeps _ s)
  | bodyPair _ _ _ _ _ _ _ _ _ ht =>
    subst ht; exact keeps ((State.deframe_keeps _ s).trans (State.deframe_keeps _ _))
  | deframer _ _ _ _ ht => subst ht; exact ⟨State.deframerRow_sameCaller s, State.deframerRow_goesOn s⟩
  | stagedByte _ _ _ _ _ _ ht => subst ht; exact keeps (State.collect_keeps _ s)
  | stagedEnd _ _ _ _ ht => subst ht; exact ⟨State.stagedRow_sameCaller s, State.stagedRow_goesOn s⟩
  | checksum _ _ ht => subst ht; exact ⟨State.checksumRow_sameCaller s, State.checksumRow_goesOn s⟩
  | stuffEnd _ _ _ ht | unstuffEnd _ _ _ ht => subst ht; exact ⟨State.handOver_sameCaller _ s, .inr rfl⟩
  | start _ _ _ _ _ ht | unstuffByte _ _ _ _ _ ht | unstuffPair _ _ _ _ _ _ _ ht =>
    subst ht; exact keeps (State.rxBytes_keeps _ s)

/-- A step of an idle block leaves it as it is, or takes the first of the caller's requests. -/
theorem stepCase_idle {s t : State} (h : StepCase s t) (hr : s.resetReq = false) (ha : s.active = .idle) :
    t = s ∨ ({ s with pending := s.pending.tail } : State).SameCaller t := by
  cases h with
  | reset hr' => simp [hr] at hr'
  | idle _ _ _ ht => exact .inl ht
  | outcome _ _ r ht => subst ht; exact .inr (State.deliver_sameCaller r _)
  | unit _ _ u ht => subst ht; exact .inr (State.handOver_sameCaller u _)
  | serial _ _ _ _ _ ht => subst ht; exact .inr (State.beginSerial_sameCaller _ _ _ _)
  | staged _ _ _ ht => subst ht; exact .inr (State.beginDecode_sameCaller _ _ _ _)
  | unitSerial _ _ _ _ _ ht => subst ht; exact .inr ⟨rfl, rfl, rfl⟩
  | noStart _ hb | noStop _ hb | start _ hb => simp [ha] at hb
  | payload _ hb | checksumByte _ hb | framer _ hb | bodyByte _ hb | bodyPair _ hb | deframer _ hb | stagedByte _ hb
  | stagedEnd _ hb | checksum _ hb | stuff _ hb | stuffEnd _ hb | unstuffByte _ hb | unstuffPair _ hb
  | unstuffEnd _ hb => simp [ha] at hb

/-- Settles O51: reset keeps both, an idle block stays or takes its first request, a busy one keeps its caller's
side. -/
theorem stepKeepsParameterAndRequests : Obligations.StepKeepsParameterAndRequests := by
  refine ⟨fun s hr ha hp => ?_, fun s t h => ?_⟩
  · have hw : s.window = none := by simp [State.window, ha, hp]
    exact step_of_idle (by simp [State.fetch_sequence hr hw, State.sequence, State.idleRow, ha, hp])
  · have hc := stepCase_of_step h
    cases hr : s.resetReq with
    | true =>
      rw [step_of_row (State.fetch_reset hr)] at h
      cases h
      exact ⟨rfl, .inl rfl⟩
    | false =>
      by_cases ha : s.active = .idle
      · rcases stepCase_idle hc hr ha with rfl | ⟨hp, hq, -⟩
        · exact ⟨rfl, .inl rfl⟩
        · exact ⟨hp, .inr ⟨ha, hq⟩⟩
      · obtain ⟨⟨hp, hq, -⟩, -⟩ := stepCase_busy hc hr ha
        exact ⟨hp, .inl hq⟩

/-! ## The rows of DECODE that read no byte -/

/-- The step of the deframer from `ExpectEnd` on (R155). -/
theorem step_deframerRow {s : State} (hr : s.resetReq = false) (ha : s.active = .decoding)
    (h1 : s.dstate ≠ .expectStart) (h2 : s.dstate ≠ .readingBody) : step s = .next s.deframerRow :=
  step_of_sequence hr (window_decoder_closed ha h1 h2) (by simp [State.sequence, ha])

/-- The step of the machine of R121 from `ExpectEnd` on. -/
theorem step_stagedRow {s : State} (hr : s.resetReq = false) (ha : s.active = .stagedDecoding)
    (h1 : s.dstate ≠ .expectStart) (h2 : s.dstate ≠ .readingBody) : step s = .next s.stagedRow :=
  step_of_sequence hr (window_staged_closed ha h1 h2) (by simp [State.sequence, ha])

theorem step_deframer_expectEnd {s : State} (hr : s.resetReq = false) (ha : s.active = .decoding)
    (hd : s.dstate = .expectEnd) : step s = .next s.settle := by
  rw [step_deframerRow hr ha (by simp [hd]) (by simp [hd])]
  simp only [State.deframerRow, hd]

theorem step_staged_expectEnd {s : State} (hr : s.resetReq = false) (ha : s.active = .stagedDecoding)
    (hd : s.dstate = .expectEnd) : step s = .next (s.startUnstuff.unstuffBody s.mem.work) := by
  rw [step_stagedRow hr ha (by simp [hd]) (by simp [hd])]
  simp only [State.stagedRow, hd]

/-- From `Done` and `Failed` both machines end the operation (R177). -/
theorem step_decoder_ended {s : State} (hr : s.resetReq = false)
    (ha : s.active = .decoding ∨ s.active = .stagedDecoding) (hd : s.dstate = .done ∨ s.dstate = .failed) :
    step s = .next s.retire := by
  have h1 : s.dstate ≠ .expectStart := by rcases hd with h | h <;> simp [h]
  have h2 : s.dstate ≠ .readingBody := by rcases hd with h | h <;> simp [h]
  rcases ha with ha | ha
  · rw [step_deframerRow hr ha h1 h2]
    rcases hd with h | h <;> simp only [State.deframerRow, h]
  · rw [step_stagedRow hr ha h1 h2]
    rcases hd with h | h <;> simp only [State.stagedRow, h]

theorem State.retire_workingInitial (s : State) : s.retire.workingInitial :=
  ⟨rfl, rfl, rfl, rfl, rfl, rfl, rfl, rfl, rfl⟩

/-- Settles O49: each row is one of the cases of `settle`, in R121's machine after UNSTUFF of the body. -/
theorem deframerEndRows : Obligations.DeframerEndRows := by
  intro s hr
  refine ⟨fun ha hd => ?_, fun ha hd => ?_, fun ha hd => ?_⟩
  · rw [step_deframer_expectEnd hr ha hd]
    refine ⟨fun hw => ?_, fun p a hw hc => ?_, fun p hw ho => ?_⟩
    · rw [State.settle_empty hw]; rfl
    · rw [State.settle_mismatch hw hc]; rfl
    · rw [State.settle_ok hw ho]; rfl
  · rw [step_staged_expectEnd hr ha hd]
    refine ⟨fun hu hw => ?_, fun hu => ?_, fun p a hu hc hw => ?_, fun p hu hw ho => ?_⟩
    · rw [State.unstuffBody_error hu hw]; rfl
    · rw [State.unstuffBody_ok hu (Nat.zero_le _), State.settle_empty rfl]; rfl
    · rw [State.unstuffBody_ok hu (by simpa using hw), State.settle_mismatch rfl hc]; rfl
    · rw [State.unstuffBody_ok hu (by simpa using hw)]
      exact congrArg Host.Outcome.next (State.settle_ok rfl ho)
  · exact ⟨s.retire, step_decoder_ended hr ha hd, rfl, s.retire_workingInitial, rfl, rfl, rfl⟩

/-! ## The functions on byte sequences, one byte more -/

theorem absorbAll_append (acc : Byte) (x y : List Byte) : absorbAll acc (x ++ y) = absorbAll (absorbAll acc x) y := by
  induction x generalizing acc with
  | nil => rfl
  | cons b rest ih => exact ih (acc + b)

theorem stuff_append (x y : List Byte) : stuff (x ++ y) = stuff x ++ stuff y := by
  induction x with
  | nil => rfl
  | cons d rest ih => simp [stuff, ih]

@[simp] theorem stuff_singleton (d : Byte) : stuff [d] = emit d := by simp [stuff]

theorem emit_length_le (d : Byte) : (emit d).length ≤ 2 := by
  unfold emit
  split <;> simp

theorem stuff_length_le (x : List Byte) : (stuff x).length ≤ 2 * x.length := by
  induction x with
  | nil => simp [stuff]
  | cons d rest ih =>
    have := emit_length_le d
    simp only [stuff, List.length_append, List.length_cons]
    omega

theorem takeAll_append (e : Bool) (x y : List Byte) :
    takeAll e (x ++ y) = ((takeAll (takeAll e x).1 y).1, (takeAll e x).2 ++ (takeAll (takeAll e x).1 y).2) := by
  induction x generalizing e with
  | nil => rfl
  | cons b rest ih => simp [takeAll, ih]

theorem takeAll_singleton (e : Bool) (b : Byte) : takeAll e [b] = take e b := by simp [takeAll]

/-- The frame with its data and checksum stuffed as one sequence (R92). -/
theorem frameOf_eq (p : List Byte) : frameOf p = FLAG :: stuff (p ++ [checksum p]) ++ [FLAG] := by
  simp [frameOf, stuff_append]

theorem encodeFrame_of_full {m : Nat} {p : List Byte} (h : m < p.length) :
    encodeFrame m p = .error .capacityExceeded := if_pos h

theorem encodeFrame_of_fits {m : Nat} {p : List Byte} (h : p.length ≤ m) : encodeFrame m p = .ok (frameOf p) := by
  rw [encodeFrame, if_neg (Nat.not_lt.2 h), frameOf_eq]
  rfl

/-- The bytes before an index, one byte more. -/
theorem take_add_one_of_drop {l rest : List Byte} {i : Nat} {b : Byte} (h : l.drop i = b :: rest) :
    l.take (i + 1) = l.take i ++ [b] := by
  rw [List.take_add, h]
  rfl

theorem lt_length_of_drop {l rest : List Byte} {i : Nat} {b : Byte} (h : l.drop i = b :: rest) : i < l.length := by
  by_contra hc
  simp [List.drop_eq_nil_of_le (Nat.not_lt.1 hc)] at h

/-! ## DECODE by the place of the delimiters -/

theorem splitBody_eq_none {x : List Byte} (h : FLAG ∉ x) : splitBody x = none := by
  induction x with
  | nil => rfl
  | cons b rest ih =>
    have hb : b ≠ FLAG := (List.ne_of_not_mem_cons h).symm
    simp [splitBody, ih (List.not_mem_of_not_mem_cons h), hb]

theorem splitBody_flag {body : List Byte} (h : FLAG ∉ body) (after : List Byte) :
    splitBody (body ++ FLAG :: after) = some (body, after) := by
  induction body with
  | nil => simp [splitBody]
  | cons b rest ih =>
    have hb : b ≠ FLAG := (List.ne_of_not_mem_cons h).symm
    simp [splitBody, ih (List.not_mem_of_not_mem_cons h), hb]

theorem decodeFrame_of_full {m : Nat} {inp : List Byte} (h : fmax m < inp.length) :
    decodeFrame m inp = .error .capacityExceeded := by
  unfold decodeFrame
  exact if_pos h

theorem decodeFrame_noStart {m : Nat} {inp : List Byte} (hf : inp.length ≤ fmax m) (h : inp.head? ≠ some FLAG) :
    decodeFrame m inp = .error .missingStartDelimiter := by
  unfold decodeFrame
  rw [if_neg (Nat.not_lt.2 hf)]
  cases inp with
  | nil => rfl
  | cons b rest =>
    have hb : b ≠ FLAG := by simpa using h
    simp [hb]

theorem decodeFrame_unterminated {m : Nat} {body : List Byte} (hf : (FLAG :: body).length ≤ fmax m)
    (h : FLAG ∉ body) : decodeFrame m (FLAG :: body) = .error .unterminatedFrame := by
  unfold decodeFrame
  rw [if_neg (Nat.not_lt.2 hf)]
  simp [splitBody_eq_none h]

theorem decodeFrame_terminated {m : Nat} {body after : List Byte}
    (hf : (FLAG :: body ++ FLAG :: after).length ≤ fmax m) (h : FLAG ∉ body) :
    decodeFrame m (FLAG :: body ++ FLAG :: after) = decodeBody body := by
  unfold decodeFrame
  rw [if_neg (Nat.not_lt.2 hf)]
  simp [splitBody_flag h]

theorem unstuff_of_takeAll {x u : List Byte} (h : takeAll false x = (false, u)) : unstuff x = .ok u := by
  simp [unstuff, unstuffFinish, h]

theorem unstuff_of_open {x : List Byte} (h : (takeAll false x).1 = true) : unstuff x = .error .truncatedEscape := by
  simp [unstuff, unstuffFinish, h]

theorem decodeBody_of_ok {x u : List Byte} (h : unstuff x = .ok u) : decodeBody x = verdict u := by
  simp [decodeBody, h]

theorem decodeBody_of_open {x : List Byte} (h : unstuff x = .error .truncatedEscape) :
    decodeBody x = .error .truncatedEscape := by
  simp [decodeBody, h]

theorem verdict_nil : verdict [] = .error .emptyBody := rfl

theorem verdict_mismatch {p : List Byte} {a : Byte} (h : checksum p ≠ a) :
    verdict (p ++ [a]) = .error (.checksumMismatch (checksum p) a) := by
  simp [verdict, h]

theorem verdict_match (p : List Byte) : verdict (p ++ [checksum p]) = .ok p := by
  simp [verdict]

/-! ## The invariant, unit by unit -/

theorem State.inv_encoding {s : State} (ha : s.active = .encoding) : s.Inv ↔ s.buffersFit ∧ s.framerInv := by
  simp [State.Inv, ha]

/-- What a machine of DECODE holds of the body bytes consumed so far: the machine of R121 the bytes as they are, the
deframer what the Unstuffer makes of them (R155). -/
def bodyHeld : Activity → List Byte → Bool × List Byte
  | .stagedDecoding, body => (false, body)
  | _, body => takeAll false body

@[simp] theorem bodyHeld_decoding (body : List Byte) : bodyHeld .decoding body = takeAll false body := rfl

@[simp] theorem bodyHeld_stagedDecoding (body : List Byte) : bodyHeld .stagedDecoding body = (false, body) := rfl

theorem bodyHeld_nil (a : Activity) : bodyHeld a [] = (false, []) := by cases a <;> rfl

theorem State.inv_decoder {s : State} (ha : s.active = .decoding ∨ s.active = .stagedDecoding) :
    s.Inv ↔ s.buffersFit ∧ s.decoderInv (bodyHeld s.active) := by
  rcases ha with ha | ha <;> rw [State.Inv, ha] <;> rfl

theorem State.inv_leaf {s : State} (ha : s.active = .checksumming ∨ s.active = .stuffing ∨ s.active = .unstuffing) :
    s.Inv ↔ s.buffersFit ∧ s.leafInv := by
  rcases ha with ha | ha | ha <;> simp [State.Inv, ha]

/-! ## The framer goes on -/

/-- The steps the framer still has to take before it delivers, from a state that meets its invariant (R151). -/
def State.framerLeft (s : State) : Nat :=
  match s.tstate with
  | .start => s.mem.input.length + 4
  | .data => s.mem.input.length - s.cursor + 3
  | .cksum => 2
  | .stop => 1
  | .done => 0

/-- `t` is the next state of the same ENCODE: it meets the framer's invariant and is one step nearer the end. -/
structure State.FramerNext (s t : State) : Prop where
  same : s.SameOperation t
  inv : t.framerInv
  left : t.framerLeft + 1 = s.framerLeft

/-- A byte given to the Stuffer in T_DATA (R150). -/
theorem State.txByte_data {s : State} {d : Byte} (ha : s.active = .encoding) (hs : s.tstate = .data) :
    s.txByte d = s.pushData d (fun t => (t.absorb d).advance) := by
  simp only [State.txByte, ha, hs]

/-- A byte given to the Stuffer in T_CKSUM (R150). -/
theorem State.txByte_cksum {s : State} {d : Byte} (ha : s.active = .encoding) (hs : s.tstate = .cksum) :
    s.txByte d = s.pushData d (fun t => { t with tstate := .stop }) := by
  simp only [State.txByte, ha, hs]

theorem State.framerNext_start {s : State} (h : s.framerInv) (hs : s.tstate = .start) : s.FramerNext s.framerRow := by
  obtain ⟨hn, ho, hph⟩ := h
  simp only [hs] at hph
  obtain ⟨hacc, hcur, hw, hout⟩ := hph
  have ht : s.framerRow = { s with tstate := .data, mem := { s.mem with output := [FLAG] } } := by
    simp only [State.framerRow, hs]
    rw [State.pushOut_of_fits (by simp [hout, fmax]), hout]
    rfl
  rw [ht]
  exact ⟨⟨⟨rfl, rfl, rfl⟩, rfl, rfl, rfl, rfl, rfl⟩,
    ⟨hn, ho, by simp [hacc, hcur, hw, absorbAll, stuff]⟩, by simp [State.framerLeft, hs, hcur]⟩

theorem State.framerNext_payload {s : State} (h : s.framerInv) (ha : s.active = .encoding) (hs : s.tstate = .data)
    (hc : s.cursor < s.mem.input.length) : s.FramerNext (s.txByte s.mem.input[s.cursor]) := by
  obtain ⟨hn, ho, hph⟩ := h
  simp only [hs] at hph
  obtain ⟨hcur, hacc, hw, hout⟩ := hph
  have htake := take_add_one_of_drop (List.drop_eq_getElem_cons hc)
  generalize s.mem.input[s.cursor] = d at htake ⊢
  have hfit : s.mem.work.length + 1 ≤ fmax s.pmax ∧ s.mem.output.length + (emit d).length ≤ fmax s.pmax := by
    have h1 := stuff_length_le (s.mem.input.take s.cursor)
    have h2 := emit_length_le d
    simp only [hw, hout, List.length_cons, List.length_take, fmax] at h1 ⊢
    omega
  have ht : s.txByte d = { s with
      acc := s.acc + d, cursor := s.cursor + 1,
      mem := { s.mem with work := s.mem.work ++ [d], output := s.mem.output ++ emit d } } := by
    rw [State.txByte_data ha hs, State.pushData_of_fits hfit.1 hfit.2]
    rfl
  rw [ht]
  refine ⟨⟨⟨rfl, rfl, rfl⟩, rfl, rfl, rfl, rfl, rfl⟩, ⟨hn, ho, ?_⟩, ?_⟩
  · simp only [hs]
    exact ⟨hc, by simp [htake, absorbAll_append, hacc, absorbAll], by simp [htake, hw],
      by simp [htake, hout, stuff_append]⟩
  · simp only [State.framerLeft, hs]
    omega

theorem State.framerNext_payloadEnd {s : State} (h : s.framerInv) (hs : s.tstate = .data)
    (hc : s.mem.input.length ≤ s.cursor) : s.FramerNext s.framerRow := by
  obtain ⟨hn, ho, hph⟩ := h
  simp only [hs] at hph
  obtain ⟨hcur, hacc, hw, hout⟩ := hph
  have hend : s.cursor = s.mem.input.length := by omega
  rw [hend, List.take_length] at hacc hw hout
  have ht : s.framerRow = { s with tstate := .cksum } := by simp only [State.framerRow, hs]
  rw [ht]
  exact ⟨⟨⟨rfl, rfl, rfl⟩, rfl, rfl, rfl, rfl, rfl⟩, ⟨hn, ho, hend, hacc, hw, hout⟩,
    by simp [State.framerLeft, hs, hend]⟩

theorem State.framerNext_checksumByte {s : State} (h : s.framerInv) (ha : s.active = .encoding)
    (hs : s.tstate = .cksum) : s.FramerNext (s.txByte (not8 s.acc)) := by
  obtain ⟨hn, ho, hph⟩ := h
  simp only [hs] at hph
  obtain ⟨hcur, hacc, hw, hout⟩ := hph
  have hck : not8 s.acc = checksum s.mem.input := by rw [hacc, checksum]
  have hfit : s.mem.work.length + 1 ≤ fmax s.pmax ∧
      s.mem.output.length + (emit (checksum s.mem.input)).length ≤ fmax s.pmax := by
    have h1 := stuff_length_le s.mem.input
    have h2 := emit_length_le (checksum s.mem.input)
    simp only [hw, hout, List.length_cons, fmax]
    omega
  have ht : s.txByte (checksum s.mem.input) = { s with
      tstate := .stop,
      mem := { s.mem with
        work := s.mem.work ++ [checksum s.mem.input],
        output := s.mem.output ++ emit (checksum s.mem.input) } } := by
    rw [State.txByte_cksum ha hs, State.pushData_of_fits hfit.1 hfit.2]
  rw [hck, ht]
  exact ⟨⟨⟨rfl, rfl, rfl⟩, rfl, rfl, rfl, rfl, rfl⟩,
    ⟨hn, ho, hcur, hacc, by simp [hw], by simp [hout, stuff_append]⟩, by simp [State.framerLeft, hs]⟩

theorem State.framerNext_stop {s : State} (h : s.framerInv) (hs : s.tstate = .stop) : s.FramerNext s.framerRow := by
  obtain ⟨hn, ho, hph⟩ := h
  simp only [hs] at hph
  obtain ⟨hcur, hacc, hw, hout⟩ := hph
  have hfit : s.mem.output.length + [FLAG].length ≤ fmax s.pmax := by
    have h1 := stuff_length_le (s.mem.input ++ [checksum s.mem.input])
    simp only [hout, List.length_append, List.length_cons, List.length_nil, fmax] at h1 ⊢
    omega
  have ht : s.framerRow = { s with
      tstate := .done, mem := { s.mem with output := s.mem.output ++ [FLAG] } } := by
    simp only [State.framerRow, hs]
    rw [State.pushOut_of_fits hfit]
  rw [ht]
  exact ⟨⟨⟨rfl, rfl, rfl⟩, rfl, rfl, rfl, rfl, rfl⟩,
    ⟨hn, ho, hcur, hacc, hw, by simp [hout, frameOf_eq]⟩, by simp [State.framerLeft, hs]⟩

/-- The row of T_DONE delivers what `OUT` holds. -/
theorem State.framerRow_done {s : State} (hs : s.tstate = .done) : s.framerRow = s.deliver (.ok s.mem.output) := by
  simp only [State.framerRow, hs]

/-- The rows of the framer that read no byte, T_DONE's aside. -/
theorem State.framerNext_row {s : State} (h : s.framerInv) (hs : s.tstate ≠ .cksum) (hd : s.tstate ≠ .done)
    (hc : s.tstate = .data → s.mem.input.length ≤ s.cursor) : s.FramerNext s.framerRow := by
  cases ht : s.tstate with
  | start => exact State.framerNext_start h ht
  | data => exact State.framerNext_payloadEnd h ht (hc ht)
  | cksum => exact absurd ht hs
  | stop => exact State.framerNext_stop h ht
  | done => exact absurd ht hd

/-! ## DECODE goes on, in either machine -/

/-- A bound on the steps DECODE still has to take before it retires, from a state that meets its invariant (R156). -/
def State.decoderLeft (s : State) : Nat :=
  match s.dstate with
  | .expectStart => s.mem.input.length + 2
  | .readingBody => s.mem.input.length - s.cursor + 2
  | .expectEnd => 1
  | .done => 0
  | .failed => 0

/-- `t` is a later state of the same DECODE: it meets the machine's invariant, is nearer the end, and an outcome in it is
DECODE's of the input. -/
structure State.DecoderNext (held : List Byte → Bool × List Byte) (s t : State) : Prop where
  same : s.SameOperation t
  inv : t.decoderInv held
  left : t.decoderLeft < s.decoderLeft
  answer : ∀ r, t.outcome = some r → r = decodeFrame s.pmax s.mem.input

section
variable {held : List Byte → Bool × List Byte} {s t : State}

theorem State.DecoderNext.trans {u : State} (h : s.DecoderNext held t) (g : t.DecoderNext held u) :
    s.DecoderNext held u where
  same := h.same.trans g.same
  inv := g.inv
  left := g.left.trans h.left
  answer r hr := by
    rw [← h.same.pmax_eq, ← h.same.input_eq]
    exact g.answer r hr

/-- The end with an error that is DECODE's. -/
theorem State.decoderNext_fail {k : ErrorKind} (ht : s.SameOperation t) (hin : s.mem.input.length ≤ fmax s.pmax)
    (hacc : t.acc = 0x00#8 ∨ t.acc = absorbAll 0x00#8 t.mem.work.dropLast) (hl : 0 < s.decoderLeft)
    (hk : decodeFrame s.pmax s.mem.input = .error k) : s.DecoderNext held (t.fail k) := by
  have hsame := ht.trans (State.fail_keeps k t)
  have hp := hsame.pmax_eq
  have hi := hsame.input_eq
  refine ⟨hsame, ⟨by rwa [hp, hi], ?_⟩, hl, fun r hr => ?_⟩
  · exact ⟨hacc, .inr ⟨k, rfl, by rw [hp, hi, hk]⟩⟩
  · rw [hk]
    exact (Option.some.inj hr).symm

/-! ### Reading -/

/-- The start delimiter is missing. -/
theorem State.decoderNext_noStart (h : s.decoderInv held) (hs : s.dstate = .expectStart)
    (hl : (s.mem.input.drop s.cursor).head? ≠ some FLAG) : s.DecoderNext held (s.fail .missingStartDelimiter) := by
  obtain ⟨hin, hph⟩ := h
  simp only [hs] at hph
  obtain ⟨hacc, hcur, -⟩ := hph
  rw [hcur, List.drop_zero] at hl
  exact State.decoderNext_fail (.refl s) hin (.inl hacc) (by simp [State.decoderLeft, hs])
    (decodeFrame_noStart hin hl)

/-- The start delimiter is there. -/
theorem State.decoderNext_start {rest : List Byte} (hheld : held [] = (false, [])) (h : s.decoderInv held)
    (hs : s.dstate = .expectStart) (hl : s.mem.input.drop s.cursor = FLAG :: rest) :
    s.DecoderNext held { s.advance with dstate := .readingBody } := by
  obtain ⟨hin, hph⟩ := h
  simp only [hs] at hph
  obtain ⟨hacc, hcur, hesc, hw, hout, hoc⟩ := hph
  have hlt := lt_length_of_drop hl
  refine ⟨⟨⟨rfl, rfl, rfl⟩, rfl, rfl, rfl, rfl, rfl⟩, ⟨hin, hacc, hoc, hout, hlt, [], ?_, by simp, ?_⟩, ?_, ?_⟩
  · simpa [hcur] using take_add_one_of_drop hl
  · simpa [hesc, hw] using hheld
  · simp only [State.decoderLeft, hs, State.advance_mem, State.advance_cursor]
    omega
  · simp [hoc]

/-- The input ends in the body. -/
theorem State.decoderNext_noStop (h : s.decoderInv held) (hs : s.dstate = .readingBody)
    (hl : s.mem.input.drop s.cursor = []) : s.DecoderNext held (s.fail .unterminatedFrame) := by
  obtain ⟨hin, hph⟩ := h
  simp only [hs] at hph
  obtain ⟨hacc, -, -, -, body, htake, hflag, -⟩ := hph
  rw [List.take_of_length_le (List.drop_eq_nil_iff.1 hl)] at htake
  refine State.decoderNext_fail (.refl s) hin (.inl hacc) (by simp [State.decoderLeft, hs]) ?_
  rw [htake] at hin ⊢
  exact decodeFrame_unterminated hin hflag

/-- `W` has room for what one more body byte gives, where the body is never shorter than what is held of it. -/
theorem State.decoderInv_work_room (hlen : ∀ body, (held body).2.length ≤ body.length)
    (h : s.decoderInv held) (hs : s.dstate = .readingBody) : s.mem.work.length + 1 ≤ fmax s.pmax := by
  obtain ⟨hin, hph⟩ := h
  simp only [hs] at hph
  obtain ⟨-, -, -, hcur, body, htake, -, hhb⟩ := hph
  have h1 := congrArg List.length htake
  have h2 := hlen body
  rw [hhb] at h2
  rw [List.length_take, List.length_cons] at h1
  dsimp only at h2
  omega

/-- A body byte is consumed: `e` and `w` are what is held of the body with that byte. -/
theorem State.decoderNext_body {b : Byte} {rest : List Byte} {e : Bool} {w : List Byte} (h : s.decoderInv held)
    (hs : s.dstate = .readingBody) (hl : s.mem.input.drop s.cursor = b :: rest) (hb : b ≠ FLAG)
    (hheld : ∀ body, held body = (s.esc, s.mem.work) → held (body ++ [b]) = (e, w)) :
    s.DecoderNext held { s.advance with esc := e, mem := { s.mem with work := w } } := by
  obtain ⟨hin, hph⟩ := h
  simp only [hs] at hph
  obtain ⟨hacc, hoc, hout, -, body, htake, hflag, hhb⟩ := hph
  have hlt := lt_length_of_drop hl
  refine ⟨⟨⟨rfl, rfl, rfl⟩, rfl, rfl, rfl, rfl, rfl⟩, ⟨hin, ?_⟩, ?_, ?_⟩
  · simp only [State.advance_dstate, hs]
    refine ⟨hacc, hoc, hout, hlt, body ++ [b], ?_, ?_, hheld body hhb⟩
    · rw [State.advance_cursor, take_add_one_of_drop hl, htake, List.cons_append]
    · simp [hflag, Ne.symm hb]
  · simp only [State.decoderLeft, State.advance_dstate, State.advance_cursor, hs]
    omega
  · simp [hoc]

/-- The terminating delimiter is consumed with no escape pending. -/
theorem State.decoderNext_stop {rest : List Byte} (h : s.decoderInv held) (hs : s.dstate = .readingBody)
    (hl : s.mem.input.drop s.cursor = FLAG :: rest)
    (hheld : ∀ body, held body = (s.esc, s.mem.work) → s.esc = false) :
    s.DecoderNext held { s.advance with dstate := .expectEnd } := by
  obtain ⟨hin, hph⟩ := h
  simp only [hs] at hph
  obtain ⟨hacc, hoc, hout, -, body, htake, hflag, hhb⟩ := hph
  refine ⟨⟨⟨rfl, rfl, rfl⟩, rfl, rfl, rfl, rfl, rfl⟩,
    ⟨hin, hacc, hoc, hout, lt_length_of_drop hl, body, ?_, hflag, ?_⟩, ?_, ?_⟩
  · rw [State.advance_cursor, State.advance_mem, take_add_one_of_drop hl, htake]
  · rw [hhb, hheld body hhb]
    rfl
  · simp [State.decoderLeft, hs]
  · simp [hoc]

/-! ### The checks of `ExpectEnd` -/

/-- DECODE of an input that has been read up to the terminating delimiter is DECODE of the body. -/
theorem decodeFrame_of_take {m c : Nat} {inp body : List Byte} (hin : inp.length ≤ fmax m)
    (htake : inp.take c = FLAG :: body ++ [FLAG]) (hflag : FLAG ∉ body) : decodeFrame m inp = decodeBody body := by
  have he : inp = FLAG :: body ++ FLAG :: inp.drop c := by
    calc inp = inp.take c ++ inp.drop c := (List.take_append_drop c inp).symm
      _ = FLAG :: body ++ FLAG :: inp.drop c := by simp [htake]
  rw [he] at hin ⊢
  exact decodeFrame_terminated hin hflag

/-- `settle` on a `W` that fits, where DECODE comes down to the verdict on it. -/
theorem State.decoderNext_settle (ht : s.SameOperation t) (hin : s.mem.input.length ≤ fmax s.pmax)
    (hl : 0 < s.decoderLeft) (hacc : t.acc = 0x00#8) (hout : t.mem.output = [])
    (hw : t.mem.work.length ≤ fmax s.pmax) (hv : decodeFrame s.pmax s.mem.input = verdict t.mem.work) :
    s.DecoderNext held t.settle := by
  have hsame := ht.trans (State.settle_keeps t)
  have hsum : ∀ p, s.SameOperation (t.sumOver p) := fun p => ht.trans ⟨⟨rfl, rfl, rfl⟩, rfl, rfl, rfl, rfl, rfl⟩
  have hp := ht.pmax_eq
  have hi := ht.input_eq
  rcases State.settle_cases t with ⟨he, hset⟩ | ⟨p, a, he, hc, hset⟩ | ⟨p, he, hset⟩ | ⟨p, he, hfull, -⟩
  · rw [hset]
    exact State.decoderNext_fail ht hin (.inl hacc) hl (by rw [hv, he, verdict_nil])
  · rw [hset]
    exact State.decoderNext_fail (hsum p) hin (.inr (by simp [he])) hl (by rw [hv, he, verdict_mismatch hc])
  · rw [he, verdict_match] at hv
    rw [hset] at hsame ⊢
    refine ⟨hsame, ⟨by rwa [hsame.pmax_eq, hsame.input_eq], ?_⟩, hl, fun r hr => ?_⟩
    · exact ⟨by simp [hout], by simp [hout], by simpa [hout, hp, hi] using hv, by simp [hout, he]⟩
    · rw [hv]
      exact (Option.some.inj hr).symm
  · rw [he, List.length_append, List.length_singleton] at hw
    rw [hout, List.length_nil, hp] at hfull
    omega

end

/-! ### The deframer -/

theorem State.decoderNext_deframe {s : State} {b : Byte} {rest : List Byte} (h : s.decoderInv (bodyHeld .decoding))
    (hs : s.dstate = .readingBody) (hl : s.mem.input.drop s.cursor = b :: rest) :
    s.DecoderNext (bodyHeld .decoding) (s.deframe b) := by
  by_cases hb : b = FLAG
  · subst hb
    rw [State.deframe_flag hs]
    cases he : s.esc with
    | false => exact State.decoderNext_stop h hs hl fun _ _ => he
    | true =>
      obtain ⟨hin, hph⟩ := h
      simp only [hs] at hph
      obtain ⟨hacc, -, -, -, body, htake, hflag, hhb⟩ := hph
      refine State.decoderNext_fail (.refl s) hin (.inl hacc) (by simp [State.decoderLeft, hs]) ?_
      have htake' : s.mem.input.take (s.cursor + 1) = FLAG :: body ++ [FLAG] := by
        rw [take_add_one_of_drop hl, htake]
      rw [decodeFrame_of_take hin htake' hflag]
      exact decodeBody_of_open (unstuff_of_open (by rw [← bodyHeld_decoding, hhb, he]))
  · have hroom := State.decoderInv_work_room (takeAll_length_le false) h hs
    have htake := take_length s.esc b
    rw [State.deframe_body hs hb (.inr (by omega))]
    exact State.decoderNext_body h hs hl hb fun body hhb => by
      rw [bodyHeld_decoding] at hhb ⊢
      simp [takeAll_append, hhb, takeAll_singleton]

/-- An escape pair is its marker and then its operand. -/
theorem State.decoderNext_deframePair {s : State} {v : Byte} {rest : List Byte} (h : s.decoderInv (bodyHeld .decoding))
    (hs : s.dstate = .readingBody) (hl : s.mem.input.drop s.cursor = ESC :: v :: rest) :
    s.DecoderNext (bodyHeld .decoding) ((s.deframe ESC).deframe v) := by
  have h1 := State.decoderNext_deframe h hs hl
  have hroom := State.decoderInv_work_room (takeAll_length_le false) h hs
  have htake := take_length s.esc ESC
  have he := State.deframe_body (b := ESC) hs (by decide) (.inr (by omega))
  refine h1.trans (State.decoderNext_deframe (rest := rest) h1.inv ?_ ?_)
  · simp [he, hs]
  · rw [he]
    change s.mem.input.drop (s.cursor + 1) = _
    rw [← List.drop_drop, hl]
    rfl

theorem State.decoderNext_deframerEnd {s : State} (h : s.decoderInv (bodyHeld .decoding)) (hs : s.dstate = .expectEnd)
    (hw : s.mem.work.length ≤ fmax s.pmax) : s.DecoderNext (bodyHeld .decoding) s.settle := by
  obtain ⟨hin, hph⟩ := h
  simp only [hs] at hph
  obtain ⟨hacc, -, hout, -, body, htake, hflag, hhb⟩ := hph
  refine State.decoderNext_settle (.refl s) hin (by simp [State.decoderLeft, hs]) hacc hout hw ?_
  rw [decodeFrame_of_take hin htake hflag, decodeBody_of_ok (unstuff_of_takeAll hhb)]

/-! ### The state machine of R121 -/

theorem State.decoderNext_collect {s : State} {b : Byte} {rest : List Byte}
    (h : s.decoderInv (bodyHeld .stagedDecoding)) (hs : s.dstate = .readingBody)
    (hl : s.mem.input.drop s.cursor = b :: rest) :
    s.DecoderNext (bodyHeld .stagedDecoding) (s.collect b) := by
  by_cases hb : b = FLAG
  · subst hb
    rw [State.collect_flag hs]
    exact State.decoderNext_stop h hs hl fun body hhb => (congrArg Prod.fst hhb).symm
  · rw [State.collect_body hs hb (State.decoderInv_work_room (fun _ => Nat.le_refl _) h hs)]
    refine State.decoderNext_body h hs hl hb fun body hhb => ?_
    obtain ⟨he, rfl⟩ := Prod.mk.inj hhb
    rw [bodyHeld_stagedDecoding, he]
    rfl

theorem State.decoderNext_stagedEnd {s : State} (h : s.decoderInv (bodyHeld .stagedDecoding))
    (hs : s.dstate = .expectEnd) (hw : s.mem.work.length ≤ fmax s.pmax) :
    s.DecoderNext (bodyHeld .stagedDecoding) (s.startUnstuff.unstuffBody s.mem.work) := by
  obtain ⟨hin, hph⟩ := h
  simp only [hs] at hph
  obtain ⟨hacc, -, hout, -, body, htake, hflag, hhb⟩ := hph
  obtain rfl : body = s.mem.work := congrArg Prod.snd hhb
  have hfit : (takeAll false s.mem.work).2.length ≤ fmax s.pmax := (takeAll_length_le _ _).trans hw
  have hleft : 0 < s.decoderLeft := by simp [State.decoderLeft, hs]
  have hd := decodeFrame_of_take hin htake hflag
  cases he : (takeAll false s.mem.work).1 with
  | true =>
    have hu := unstuff_of_open he
    rw [State.unstuffBody_error hu hfit]
    exact State.decoderNext_fail ⟨⟨rfl, rfl, rfl⟩, rfl, rfl, rfl, rfl, rfl⟩ hin (.inl hacc) hleft
      (by rw [hd, decodeBody_of_open hu])
  | false =>
    have hu : unstuff s.mem.work = .ok (takeAll false s.mem.work).2 := unstuff_of_takeAll (Prod.ext he rfl)
    rw [State.unstuffBody_ok hu hfit]
    exact State.decoderNext_settle ⟨⟨rfl, rfl, rfl⟩, rfl, rfl, rfl, rfl, rfl⟩ hin hleft hacc hout hfit
      (by rw [hd, decodeBody_of_ok hu])

/-! ## Starting and ending -/

theorem State.deliver_workingInitial (r : Result) (s : State) : (s.deliver r).workingInitial :=
  ⟨rfl, rfl, rfl, rfl, rfl, rfl, rfl, rfl, rfl⟩

theorem State.deliver_inv (r : Result) (s : State) : (s.deliver r).Inv :=
  State.inv_of_workingInitial rfl (State.deliver_workingInitial r s)

theorem State.handOver_inv (u : UnitResult) (s : State) : (s.handOver u).Inv :=
  State.inv_of_workingInitial rfl ⟨rfl, rfl, rfl, rfl, rfl, rfl, rfl, rfl, rfl⟩

theorem State.applyReset_inv (s : State) : s.applyReset.Inv :=
  State.inv_of_workingInitial rfl ⟨rfl, rfl, rfl, rfl, rfl, rfl, rfl, rfl, rfl⟩

theorem State.retire_inv (s : State) : s.retire.Inv := State.inv_of_workingInitial rfl s.retire_workingInitial

/-- An input over the capacity: the operation has failed at its request. -/
theorem State.beginDecode_of_full {a : Activity} {pairs : Bool} {inp : List Byte} {s : State}
    (h : fmax s.pmax < inp.length) : s.beginDecode a pairs inp =
      ({ s.begin with active := a, pairs := pairs } : State).fail .capacityExceeded := if_pos h

theorem State.beginDecode_of_fits {a : Activity} {pairs : Bool} {inp : List Byte} {s : State}
    (h : inp.length ≤ fmax s.pmax) : s.beginDecode a pairs inp =
      { s.begin with active := a, pairs := pairs, mem := { input := inp, work := [], output := [] } } :=
  if_neg (Nat.not_lt.2 h)

theorem State.beginSerial_encode_full {pairs : Bool} {inp : List Byte} {s : State} (h : s.pmax < inp.length) :
    s.beginSerial 0#1 pairs inp = s.deliver (.error .capacityExceeded) := if_pos h

theorem State.beginSerial_encode_fits {pairs : Bool} {inp : List Byte} {s : State} (h : inp.length ≤ s.pmax) :
    s.beginSerial 0#1 pairs inp =
      { s.begin with active := .encoding, mem := { input := inp, work := [], output := [] } } :=
  if_neg (Nat.not_lt.2 h)

theorem State.beginSerial_decode {op : BitVec 1} (hop : op ≠ 0#1) (pairs : Bool) (inp : List Byte) (s : State) :
    s.beginSerial op pairs inp = s.beginDecode .decoding pairs inp := by
  simp [State.beginSerial, hop]

theorem State.beginDecode_active (a : Activity) (pairs : Bool) (inp : List Byte) (s : State) :
    (s.beginDecode a pairs inp).active = a := by
  unfold State.beginDecode
  split <;> rfl

/-- A request row of DECODE starts in the invariant of the machine it starts. -/
theorem State.beginDecode_inv {a : Activity} (ha : a = .decoding ∨ a = .stagedDecoding) (pairs : Bool)
    (inp : List Byte) (s : State) : (s.beginDecode a pairs inp).Inv := by
  have hact := State.beginDecode_active a pairs inp s
  refine (State.inv_decoder (hact.symm ▸ ha)).2 ⟨State.beginDecode_buffersFit a pairs inp s, ?_⟩
  rcases Nat.lt_or_ge (fmax s.pmax) inp.length with hin | hin
  · rw [State.beginDecode_of_full hin]
    exact ⟨Nat.zero_le _, .inl rfl, .inl ⟨rfl, rfl⟩⟩
  · rw [State.beginDecode_of_fits hin]
    exact ⟨hin, rfl, rfl, rfl, rfl, rfl, rfl⟩

theorem State.beginSerial_inv (op : BitVec 1) (pairs : Bool) (inp : List Byte) (s : State) :
    (s.beginSerial op pairs inp).Inv := by
  by_cases hop : op = 0#1
  · subst hop
    have hfit := State.beginSerial_buffersFit 0#1 pairs inp s
    rcases Nat.lt_or_ge s.pmax inp.length with hin | hin
    · rw [State.beginSerial_encode_full hin]
      exact State.deliver_inv _ s
    · rw [State.beginSerial_encode_fits hin] at hfit ⊢
      exact (State.inv_encoding rfl).2 ⟨hfit, hin, rfl, rfl, rfl, rfl, rfl⟩
  · rw [State.beginSerial_decode hop]
    exact State.beginDecode_inv (.inl rfl) pairs inp s

theorem State.beginUnit_inv (u : Leaf) (pairs : Bool) (x : List Byte) (s : State) : (s.beginUnit u pairs x).Inv := by
  have hfit : (s.beginUnit u pairs x).buffersFit := State.buffersFit_congr rfl rfl s.begin_buffersFit
  cases u
  · exact (State.inv_leaf (.inl rfl)).2 ⟨hfit, Nat.zero_le _, rfl⟩
  · exact (State.inv_leaf (.inr (.inl rfl))).2 ⟨hfit, Nat.zero_le _, rfl⟩
  · exact (State.inv_leaf (.inr (.inr rfl))).2 ⟨hfit, Nat.zero_le _, rfl⟩

/-! ## The units on their own -/

theorem State.checksumRow_inv {s : State} (h : s.Inv) (ha : s.active = .checksumming) : s.checksumRow.Inv := by
  obtain ⟨hfit, -, hph⟩ := (State.inv_leaf (.inl ha)).1 h
  simp only [ha] at hph
  unfold State.checksumRow
  split
  · next b hb =>
    obtain ⟨hlt, hl⟩ := drop_of_bufRead hb
    have ha' : (s.absorb b).advance.active = .checksumming := ha
    refine (State.inv_leaf (.inl ha')).2 ⟨State.buffersFit_congr rfl rfl hfit, hlt, ?_⟩
    simp [ha, take_add_one_of_drop hl, absorbAll_append, absorbAll, hph]
  · exact State.handOver_inv _ s

theorem State.txByte_stuffing {s : State} {d : Byte} (ha : s.active = .stuffing) :
    s.txByte d = (s.emitAlone d).advance := by
  simp only [State.txByte, ha]

theorem State.txByte_stuffing_inv {s : State} (h : s.Inv) (ha : s.active = .stuffing)
    (hc : s.cursor < s.operand.length) : (s.txByte s.operand[s.cursor]).Inv := by
  obtain ⟨hfit, -, hph⟩ := (State.inv_leaf (.inr (.inl ha))).1 h
  simp only [ha] at hph
  have htake := take_add_one_of_drop (List.drop_eq_getElem_cons hc)
  generalize s.operand[s.cursor] = d at htake ⊢
  rw [State.txByte_stuffing ha]
  have ha' : (s.emitAlone d).advance.active = .stuffing := ha
  refine (State.inv_leaf (.inr (.inl ha'))).2 ⟨State.buffersFit_congr rfl rfl hfit, hc, ?_⟩
  simp [ha, htake, stuff_append, hph]

/-- The Unstuffer on its own consumes the bytes of one symbol, which stand at its cursor. -/
theorem State.rxBytes_unstuffing_inv {s : State} {bs rest : List Byte} (h : s.Inv) (ha : s.active = .unstuffing)
    (hl : s.operand.drop s.cursor = bs ++ rest) (hbs : bs ≠ []) : (s.rxBytes bs).Inv := by
  obtain ⟨hfit, -, hph⟩ := (State.inv_leaf (.inr (.inr ha))).1 h
  simp only [ha] at hph
  have htake : s.operand.take (s.cursor + bs.length) = s.operand.take s.cursor ++ bs := by
    rw [List.take_add, hl, List.take_left]
  have hcur : s.cursor + bs.length ≤ s.operand.length := by
    have hlen := congrArg List.length hl
    have hpos := List.length_pos_iff.2 hbs
    rw [List.length_drop, List.length_append] at hlen
    omega
  have hsame := State.rxBytes_keeps bs s
  have ha' : (s.rxBytes bs).active = .unstuffing := hsame.active_eq.trans ha
  rw [State.rxBytes_unstuffing ha] at ha' ⊢
  refine (State.inv_leaf (.inr (.inr ha'))).2 ⟨State.buffersFit_congr rfl rfl hfit, hcur, ?_⟩
  simp [ha, htake, takeAll_append, hph]

/-! ## Every step keeps the invariant -/

/-- ENCODE not yet in T_DONE. -/
theorem stepCase_framer {s t : State} (hc : StepCase s t) (hr : s.resetReq = false) (ha : s.active = .encoding)
    (h : s.Inv) (hd : s.tstate ≠ .done) : s.FramerNext t := by
  have hf : s.framerInv := ((State.inv_encoding ha).1 h).2
  cases hc with
  | payload _ _ hs hlt ht => exact ht ▸ State.framerNext_payload hf ha hs hlt
  | checksumByte _ _ hs ht => exact ht ▸ State.framerNext_checksumByte hf ha hs
  | framer _ _ hs hend ht => exact ht ▸ State.framerNext_row hf hs hd hend
  | _ => simp_all  -- a case of another unit, or of another phase

/-- ENCODE in T_DONE. -/
theorem stepCase_framer_done {s t : State} (hc : StepCase s t) (hr : s.resetReq = false) (ha : s.active = .encoding)
    (hd : s.tstate = .done) : t = s.deliver (.ok s.mem.output) := by
  cases hc with
  | framer _ _ _ _ ht => rw [ht, State.framerRow_done hd]
  | _ => simp_all  -- a case of another unit, or of another phase

theorem State.rxBytes_flag_expectStart {s : State} (ha : s.active = .decoding ∨ s.active = .stagedDecoding)
    (hs : s.dstate = .expectStart) : s.rxBytes [FLAG] = { s.advance with dstate := .readingBody } := by
  rcases ha with ha | ha
  · rw [State.rxBytes_decoding ha]
    simp [State.deframeAll, State.deframe_expectStart hs]
  · rw [State.rxBytes_stagedDecoding ha]
    simp [State.collectAll, State.collect_expectStart hs]

theorem DState.eq_expectEnd {d : DState} (h1 : d ≠ .expectStart) (h2 : d ≠ .readingBody) (h3 : d ≠ .done)
    (h4 : d ≠ .failed) : d = .expectEnd := by
  cases d <;> simp_all

/-- DECODE not yet in `Done` or `Failed`. -/
theorem stepCase_decoder {s t : State} (hc : StepCase s t) (hr : s.resetReq = false)
    (ha : s.active = .decoding ∨ s.active = .stagedDecoding) (h : s.Inv) (hd1 : s.dstate ≠ .done)
    (hd2 : s.dstate ≠ .failed) : s.DecoderNext (bodyHeld s.active) t := by
  obtain ⟨hfit, hi⟩ := (State.inv_decoder ha).1 h
  obtain ⟨-, hw, -⟩ := State.buffersFit_iff.1 hfit
  cases hc with
  | noStart _ _ hs hl ht => exact ht ▸ State.decoderNext_noStart hi hs hl
  | noStop _ _ hs hl ht => exact ht ▸ State.decoderNext_noStop hi hs hl
  | start _ _ hs rest hl ht =>
    rw [ht, State.rxBytes_flag_expectStart ha hs]
    exact State.decoderNext_start (bodyHeld_nil _) hi hs hl
  | bodyByte _ ha hs b rest hl ht =>
    rw [ha] at hi ⊢
    exact ht ▸ State.decoderNext_deframe hi hs hl
  | bodyPair _ ha hs _ _ v rest hl _ ht =>
    rw [ha] at hi ⊢
    exact ht ▸ State.decoderNext_deframePair hi hs hl
  | deframer _ ha h1 h2 ht =>
    have hs := DState.eq_expectEnd h1 h2 hd1 hd2
    rw [ha] at hi ⊢
    simp only [ht, State.deframerRow, hs]
    exact State.decoderNext_deframerEnd hi hs hw
  | stagedByte _ ha hs b rest hl ht =>
    rw [ha] at hi ⊢
    exact ht ▸ State.decoderNext_collect hi hs hl
  | stagedEnd _ ha h1 h2 ht =>
    have hs := DState.eq_expectEnd h1 h2 hd1 hd2
    rw [ha] at hi ⊢
    simp only [ht, State.stagedRow, hs]
    exact State.decoderNext_stagedEnd hi hs hw
  | _ => simp_all  -- a case of another unit, or of another phase

/-- An idle block starts an operation in its invariant, or stays idle. -/
theorem stepCase_idle_inv {s t : State} (hc : StepCase s t) (ha : s.active = .idle) (h : s.Inv) : t.Inv := by
  cases hc with
  | reset _ ht => exact ht ▸ s.applyReset_inv
  | idle _ _ _ ht => exact ht ▸ h
  | outcome _ _ r ht => exact ht ▸ State.deliver_inv r _
  | unit _ _ u ht => exact ht ▸ State.handOver_inv u _
  | serial _ _ op pairs inp ht => exact ht ▸ State.beginSerial_inv op pairs inp _
  | staged _ _ inp ht => exact ht ▸ State.beginDecode_inv (.inr rfl) false inp _
  | unitSerial _ _ u pairs x ht => exact ht ▸ State.beginUnit_inv u pairs x _
  | _ => simp_all  -- a case of another unit, or of another phase

/-- The units on their own. -/
theorem stepCase_leaf_inv {s t : State} (hc : StepCase s t) (hr : s.resetReq = false)
    (ha : s.active = .checksumming ∨ s.active = .stuffing ∨ s.active = .unstuffing) (h : s.Inv) : t.Inv := by
  cases hc with
  | checksum _ ha ht => exact ht ▸ State.checksumRow_inv h ha
  | stuff _ ha hlt ht => exact ht ▸ State.txByte_stuffing_inv h ha hlt
  | stuffEnd _ _ _ ht => exact ht ▸ State.handOver_inv _ s
  | unstuffByte _ ha b rest hl ht => exact ht ▸ State.rxBytes_unstuffing_inv h ha hl (List.cons_ne_nil _ _)
  | unstuffPair _ ha _ _ v rest hl ht => exact ht ▸ State.rxBytes_unstuffing_inv h ha hl (List.cons_ne_nil _ _)
  | unstuffEnd _ _ _ ht => exact ht ▸ State.handOver_inv _ s
  | noStart _ hb | noStop _ hb | start _ hb => rcases hb with hb | hb <;> simp [hb] at ha
  | _ => simp_all  -- a case of another unit, or of another phase

/-- Every push is within the capacity, and a start or an end of an operation empties the buffers. -/
theorem stepCase_buffersFit {s t : State} (hc : StepCase s t) (h : s.buffersFit) : t.buffersFit := by
  cases hc with
  | reset _ ht => exact ht ▸ s.applyReset_buffersFit
  | idle _ _ _ ht => exact ht ▸ h
  | outcome _ _ r ht => exact ht ▸ State.deliver_buffersFit r _
  | unit _ _ u ht => exact ht ▸ State.handOver_buffersFit u _
  | serial _ _ op pairs inp ht => exact ht ▸ State.beginSerial_buffersFit op pairs inp _
  | staged _ _ inp ht => exact ht ▸ State.beginDecode_buffersFit _ false inp _
  | unitSerial _ _ u pairs x ht => exact ht ▸ State.buffersFit_congr rfl rfl (State.begin_buffersFit _)
  | payload _ _ _ _ ht | checksumByte _ _ _ ht | stuff _ _ _ ht => exact ht ▸ State.txByte_buffersFit h
  | framer _ _ _ _ ht => exact ht ▸ State.framerRow_buffersFit h
  | noStart _ _ _ _ ht | noStop _ _ _ _ ht => exact ht ▸ State.buffersFit_congr rfl rfl h
  | start _ _ _ _ _ ht | unstuffByte _ _ _ _ _ ht | unstuffPair _ _ _ _ _ _ _ ht =>
    exact ht ▸ State.rxBytes_buffersFit h
  | bodyByte _ _ _ _ _ _ ht => exact ht ▸ State.deframe_buffersFit h
  | bodyPair _ _ _ _ _ _ _ _ _ ht => exact ht ▸ State.deframe_buffersFit (State.deframe_buffersFit h)
  | deframer _ _ _ _ ht => exact ht ▸ State.deframerRow_buffersFit h
  | stagedByte _ _ _ _ _ _ ht => exact ht ▸ State.collect_buffersFit h
  | stagedEnd _ _ _ _ ht => exact ht ▸ State.stagedRow_buffersFit h
  | checksum _ _ ht => exact ht ▸ State.checksumRow_buffersFit h
  | stuffEnd _ _ _ ht | unstuffEnd _ _ _ ht => exact ht ▸ State.handOver_buffersFit _ s

theorem stepCase_encoding_inv {s t : State} (hc : StepCase s t) (hr : s.resetReq = false) (ha : s.active = .encoding)
    (h : s.Inv) : t.Inv := by
  by_cases hd : s.tstate = .done
  · exact stepCase_framer_done hc hr ha hd ▸ State.deliver_inv _ s
  · have hn := stepCase_framer hc hr ha h hd
    exact (State.inv_encoding (hn.same.active_eq.trans ha)).2 ⟨stepCase_buffersFit hc h.1, hn.inv⟩

theorem step_decoder_inv {s t : State} (hs : step s = .next t) (hr : s.resetReq = false)
    (ha : s.active = .decoding ∨ s.active = .stagedDecoding) (h : s.Inv) : t.Inv := by
  by_cases hd : s.dstate = .done ∨ s.dstate = .failed
  · rw [step_decoder_ended hr ha hd] at hs
    cases hs
    exact s.retire_inv
  · obtain ⟨hd1, hd2⟩ := not_or.1 hd
    have hc := stepCase_of_step hs
    have hn := stepCase_decoder hc hr ha h hd1 hd2
    have hact := hn.same.active_eq
    exact (State.inv_decoder (hact ▸ ha)).2 ⟨stepCase_buffersFit hc h.1, hact ▸ hn.inv⟩

/-- Settles O55, by the unit that has an operation in progress. -/
theorem everyStepKeepsTheInvariant : Obligations.EveryStepKeepsTheInvariant := by
  intro s t h hs
  have hc := stepCase_of_step hs
  cases hr : s.resetReq with
  | true =>
    rw [step_of_row (State.fetch_reset hr)] at hs
    cases hs
    exact s.applyReset_inv
  | false =>
    cases ha : s.active with
    | idle => exact stepCase_idle_inv hc ha h
    | encoding => exact stepCase_encoding_inv hc hr ha h
    | decoding => exact step_decoder_inv hs hr (.inl ha) h
    | stagedDecoding => exact step_decoder_inv hs hr (.inr ha) h
    | checksumming => exact stepCase_leaf_inv hc hr (.inl ha) h
    | stuffing => exact stepCase_leaf_inv hc hr (.inr (.inl ha)) h
    | unstuffing => exact stepCase_leaf_inv hc hr (.inr (.inr ha)) h

/-! ## When the outcome is written -/

theorem State.outcome_of_encoding {s : State} (ha : s.active = .encoding) (h : s.Inv) : s.outcome = none := by
  obtain ⟨-, -, ho, -⟩ := (State.inv_encoding ha).1 h
  exact ho

/-- A DECODE has an outcome exactly when it has ended. -/
theorem State.outcome_isSome_of_decoder {s : State} (ha : s.active = .decoding ∨ s.active = .stagedDecoding)
    (h : s.Inv) : s.outcome.isSome = true ↔ s.dstate = .done ∨ s.dstate = .failed := by
  obtain ⟨-, -, hph⟩ := (State.inv_decoder ha).1 h
  cases hd : s.dstate <;> simp only [hd] at hph
  case expectStart =>
    obtain ⟨-, -, -, -, -, ho⟩ := hph
    simp [ho]
  case readingBody | expectEnd | done =>
    obtain ⟨-, ho, -⟩ := hph
    simp [ho]
  case failed =>
    obtain ⟨-, ⟨-, ho⟩ | ⟨k, ho, -⟩⟩ := hph <;> simp [ho]

/-- Settles O57: the state after the step meets the invariant too, which says when an outcome is there. -/
theorem outcomeIsWrittenAtTheEnd : Obligations.OutcomeIsWrittenAtTheEnd := by
  intro s t h hr hs
  have ht := everyStepKeepsTheInvariant s t h hs
  have goesOn := fun hb => (stepCase_busy (stepCase_of_step hs) hr hb).2
  refine ⟨?_, fun ha hd => ?_⟩
  · rintro (ha | ⟨ha, hd1, hd2⟩)
    · refine ⟨State.outcome_of_encoding ha h, fun ho => .inl ?_⟩
      rcases goesOn (by simp [ha]) with hsame | hidle
      · rw [State.outcome_of_encoding (hsame.active_eq.trans ha) ht] at ho
        cases ho
      · exact hidle
    · have hiff := State.outcome_isSome_of_decoder ha h
      refine ⟨by simpa [hd1, hd2] using hiff, fun ho => ?_⟩
      rcases goesOn (by rcases ha with ha | ha <;> simp [ha]) with hsame | hidle
      · have ha' : t.active = .decoding ∨ t.active = .stagedDecoding := by rwa [hsame.active_eq]
        exact .inr ((State.outcome_isSome_of_decoder ha' ht).1 ho)
      · exact .inl hidle
  · rw [step_decoder_ended hr ha hd] at hs
    cases hs
    exact ⟨(State.outcome_isSome_of_decoder ha h).2 hd, rfl, rfl⟩

/-! ## A byte-serial request runs to its end -/

theorem run_succ_of_step {s t : State} (h : step s = .next t) (k : Nat) :
    Host.Core.run core (k + 1) s = Host.Core.run core k t := by
  have h' : core.step s = .next t := h
  simp only [Host.Core.run, h']

/-- A run whose states meet `P` until it ends in `fin`, each nearer the end than the one before it. -/
theorem run_reaches {P : State → Prop} {left : State → Nat} {fin : State}
    (hstep : ∀ s, P s → step s = .next fin ∨ ∃ t, step s = .next t ∧ P t ∧ left t < left s) {n : Nat} {s : State}
    (hs : P s) (hn : left s ≤ n) : ∃ k ≤ n + 1, Host.Core.run core k s = .next fin := by
  induction n generalizing s with
  | zero =>
    rcases hstep s hs with h | ⟨t, -, -, hlt⟩
    · exact ⟨1, Nat.le_refl 1, run_succ_of_step h 0⟩
    · omega
  | succ n ih =>
    rcases hstep s hs with h | ⟨t, h, ht, hlt⟩
    · exact ⟨1, by omega, run_succ_of_step h 0⟩
    · obtain ⟨k, hk, hrun⟩ := ih ht (by omega)
      exact ⟨k + 1, by omega, (run_succ_of_step h k).trans hrun⟩

/-- What an operation leaves when it is delivered depends on the caller's side of the state only. -/
theorem State.deliver_of_sameCaller {s t : State} (h : s.SameCaller t) (r : Result) : t.deliver r = s.deliver r := by
  obtain ⟨hp, hq, hr⟩ := h
  simp [State.deliver, State.begin, State.toIdle, hp, hq, hr]

/-- An operation that ends with its outcome written has delivered it. -/
theorem State.retire_eq_deliver {s : State} {r : Result} (ho : s.outcome = some r) (hu : s.unitOut = none) :
    s.retire = s.deliver r := by
  simp [State.retire, State.deliver, State.begin, State.toIdle, ho, hu]

/-- ENCODE byte by byte, from any state that meets the framer's invariant, delivers ENCODE's result (R151). -/
theorem framer_delivers {s : State} (hr : s.resetReq = false) (ha : s.active = .encoding) (h : s.Inv) :
    ∃ k ≤ s.framerLeft + 1, Host.Core.run core k s = .next (s.deliver (encodeFrame s.pmax s.mem.input)) := by
  refine run_reaches (left := State.framerLeft) (P := fun u => s.SameOperation u ∧ u.Inv) ?_ ⟨.refl s, h⟩
    (Nat.le_refl _)
  rintro u ⟨hsame, hu⟩
  obtain ⟨t, hstep, hc⟩ := step_cases u
  have hru : u.resetReq = false := hsame.resetReq_eq.trans hr
  have hau : u.active = .encoding := hsame.active_eq.trans ha
  by_cases hd : u.tstate = .done
  · left
    obtain ⟨hn, -, hph⟩ := ((State.inv_encoding hau).1 hu).2
    simp only [hd] at hph
    obtain ⟨-, -, -, hout⟩ := hph
    rw [hstep, stepCase_framer_done hc hru hau hd, State.deliver_of_sameCaller hsame.1]
    rw [hsame.pmax_eq, hsame.input_eq] at hn
    rw [hout, hsame.input_eq, encodeFrame_of_fits hn]
  · right
    have hn := stepCase_framer hc hru hau hu hd
    have hl := hn.left
    exact ⟨t, hstep, ⟨hsame.trans hn.same, everyStepKeepsTheInvariant u t hu hstep⟩, by omega⟩

/-- DECODE byte by byte, in either machine and from any state that meets its invariant, delivers DECODE's result, if the
outcome is not another one by then: the one of an input over the capacity, which is not in `IN` (R156). -/
theorem decoder_delivers {s : State} (hr : s.resetReq = false)
    (ha : s.active = .decoding ∨ s.active = .stagedDecoding) (h : s.Inv) (hu : s.unitOut = none)
    (ho : ∀ r, s.outcome = some r → r = decodeFrame s.pmax s.mem.input) :
    ∃ k ≤ s.decoderLeft + 1, Host.Core.run core k s = .next (s.deliver (decodeFrame s.pmax s.mem.input)) := by
  refine run_reaches (left := State.decoderLeft)
    (P := fun u => s.SameOperation u ∧ u.Inv ∧ ∀ r, u.outcome = some r → r = decodeFrame s.pmax s.mem.input)
    ?_ ⟨.refl s, h, ho⟩ (Nat.le_refl _)
  rintro u ⟨hsame, hi, hou⟩
  have hru : u.resetReq = false := hsame.resetReq_eq.trans hr
  have hau : u.active = .decoding ∨ u.active = .stagedDecoding := by rwa [hsame.active_eq]
  by_cases hd : u.dstate = .done ∨ u.dstate = .failed
  · left
    obtain ⟨r, hr⟩ := Option.isSome_iff_exists.1
      ((State.outcome_isSome_of_decoder hau hi).2 hd)
    rw [step_decoder_ended hru hau hd, State.retire_eq_deliver hr (hsame.unitOut_eq.trans hu),
      State.deliver_of_sameCaller hsame.1, hou r hr]
  · right
    obtain ⟨hd1, hd2⟩ := not_or.1 hd
    obtain ⟨t, hstep, hc⟩ := step_cases u
    have hn := stepCase_decoder hc hru hau hi hd1 hd2
    refine ⟨t, hstep, ⟨hsame.trans hn.same, everyStepKeepsTheInvariant u t hi hstep, ?_⟩, hn.left⟩
    rw [← hsame.pmax_eq, ← hsame.input_eq]
    exact hn.answer

/-- What a request asks for: the result of its operation (R22, R58). -/
def requestResult (op : BitVec 1) (pmax : Nat) (inp : List Byte) : Result :=
  if op = 0#1 then encodeFrame pmax inp else decodeFrame pmax inp

/-- A request taken in one step. -/
theorem step_request {s : State} {op : BitVec 1} {inp : List Byte} {q : List Command} (hr : s.resetReq = false)
    (ha : s.active = .idle) (hp : s.pending = .request op inp :: q) :
    step s = .next (({ s with pending := q } : State).deliver (requestResult op s.pmax inp)) := by
  have hw := window_request ha hp
  have hcons : s.consume = { s with pending := q } := by simp [State.consume_eq, ha, hp]
  have hd := decode_request_selector op inp
  unfold requestResult
  split at hd
  · next hop =>
    rw [step_of_instr (State.fetch_decoded hr hw hd), hcons, if_pos hop]
    exact State.atomic_of_idle ha
  · next hop =>
    rw [step_of_instr (State.fetch_decoded hr hw hd), hcons, if_neg hop]
    exact State.atomic_of_idle ha

theorem step_serial {s : State} {op : BitVec 1} {pairs : Bool} {inp : List Byte} {q : List Command}
    (hr : s.resetReq = false) (ha : s.active = .idle) (hp : s.pending = .serial op pairs inp :: q) :
    step s = .next (({ s with pending := q } : State).beginSerial op pairs inp) := by
  have hw : s.window = none := by simp [State.window, ha, hp]
  exact step_of_sequence hr hw (by simp [State.sequence, State.idleRow, ha, hp])

/-- A DECODE that has started runs to the delivery of DECODE's result. -/
theorem run_beginDecode {a : Activity} (ha : a = .decoding ∨ a = .stagedDecoding) (pairs : Bool) (inp : List Byte)
    {s : State} (hr : s.resetReq = false) :
    ∃ k ≤ inp.length + 3,
      Host.Core.run core k (s.beginDecode a pairs inp) = .next (s.deliver (decodeFrame s.pmax inp)) := by
  have hinv := State.beginDecode_inv ha pairs inp s
  rcases Nat.lt_or_ge (fmax s.pmax) inp.length with hin | hin
  · rw [State.beginDecode_of_full hin, decodeFrame_of_full hin]
    refine ⟨1, by omega, ?_⟩
    exact run_succ_of_step (step_decoder_ended
      (s := ({ s.begin with active := a, pairs := pairs } : State).fail .capacityExceeded) hr ha (.inr rfl)) 0
  · have hact := State.beginDecode_active a pairs inp s
    rw [State.beginDecode_of_fits hin] at hinv hact ⊢
    exact decoder_delivers (s := { s.begin with active := a, pairs := pairs, mem := _ }) hr (hact ▸ ha) hinv rfl
      (fun _ h => nomatch h)

/-- A request taken byte by byte runs to the delivery of its result. -/
theorem run_beginSerial (op : BitVec 1) (pairs : Bool) (inp : List Byte) {s : State} (hr : s.resetReq = false) :
    ∃ k, Host.Core.run core k (s.beginSerial op pairs inp) = .next (s.deliver (requestResult op s.pmax inp)) := by
  unfold requestResult
  split
  · next hop =>
    subst hop
    have hinv := State.beginSerial_inv 0#1 pairs inp s
    rcases Nat.lt_or_ge s.pmax inp.length with hin | hin
    · rw [State.beginSerial_encode_full hin, encodeFrame_of_full hin]
      exact ⟨0, rfl⟩
    · rw [State.beginSerial_encode_fits hin] at hinv ⊢
      obtain ⟨k, -, hk⟩ := framer_delivers (s := { s.begin with active := .encoding, mem := _ }) hr rfl hinv
      exact ⟨k, hk⟩
  · next hop =>
    rw [State.beginSerial_decode hop]
    obtain ⟨k, -, hk⟩ := run_beginDecode (.inl rfl) pairs inp hr
    exact ⟨k, hk⟩

/-- Settles O29: both blocks deliver `requestResult`. -/
theorem outcomeDependsOnTheRequestOnly : Obligations.OutcomeDependsOnTheRequestOnly := by
  intro s u op pairs inp q r has hau hrs hru hpmax hps hpu
  obtain ⟨k, hk⟩ := run_beginSerial op pairs inp (s := { u with pending := r }) hru
  refine ⟨k + 1, _, _, run_succ_of_step (step_request hrs has hps) 0,
    (run_succ_of_step (step_serial hru hau hpu) k).trans hk, rfl, rfl,
    State.deliver_workingInitial _ _, State.deliver_workingInitial _ _, rfl, rfl, rfl, ?_⟩
  rw [State.deliver_outcome, State.deliver_outcome, hpmax]

end Sys2Proof.Machine
end

section
/-! PROOFS. The bounded buffers (spec/20_memory.md): reads and pushes at and around the length and the capacity, what a
push to a full buffer does to ENCODE and DECODE (R33), and that the invariant leaves room for every push (R41). -/

namespace Sys2Proof.Machine

/-! ## Reads and pushes -/

@[simp] theorem bufPush_eq_none {cap : Nat} {buf : List Byte} {b : Byte} :
    bufPush cap buf b = none ↔ cap ≤ buf.length := by
  simp [bufPush]

/-- Settles O34: a push is an append, a read the list's own lookup. -/
theorem bufferReadsAndPushes : Obligations.BufferReadsAndPushes := by
  intro cap buf b
  refine ⟨fun h => ⟨buf ++ [b], bufPush_eq_some.2 ⟨h, rfl⟩, by simp, List.getElem?_concat_length, fun k hk => ?_⟩,
    bufPush_eq_none.2, fun k hk => List.getElem?_eq_none hk, fun k hk => ?_⟩
  · exact List.getElem?_append_left hk
  · simp [bufRead, hk]

/-! ## A push to a full buffer -/

theorem emit_ne_nil (d : Byte) : emit d ≠ [] := by
  unfold emit
  split <;> simp

/-- A data byte for which `W`, or what the Stuffer makes of it for which `OUT`, has no room ends the operation. -/
theorem State.pushData_of_full {d : Byte} {k : State → State} {s : State}
    (h : fmax s.pmax ≤ s.mem.work.length ∨ fmax s.pmax < s.mem.output.length + (emit d).length) :
    s.pushData d k = s.deliver (.error .capacityExceeded) := by
  unfold State.pushData
  split
  · next w hw =>
    have hwork := (bufPush_eq_some.1 hw).1
    exact State.pushOut_of_full (emit_ne_nil d) (h.resolve_left (Nat.not_le.2 hwork))
  · rfl

theorem State.txByte_of_full {d : Byte} {s : State} (ha : s.active = .encoding)
    (ht : s.tstate = .data ∨ s.tstate = .cksum)
    (h : fmax s.pmax ≤ s.mem.work.length ∨ fmax s.pmax < s.mem.output.length + (emit d).length) :
    s.txByte d = s.deliver (.error .capacityExceeded) := by
  rcases ht with ht | ht
  · rw [State.txByte_data ha ht, State.pushData_of_full h]
  · rw [State.txByte_cksum ha ht, State.pushData_of_full h]

/-- The step of the framer that pushes a delimiter, where `OUT` is full. -/
theorem step_framer_delimiter_full {s : State} (hr : s.resetReq = false) (ha : s.active = .encoding)
    (ht : s.tstate = .start ∨ s.tstate = .stop) (ho : fmax s.pmax ≤ s.mem.output.length) :
    step s = .next (s.deliver (.error .capacityExceeded)) := by
  have hw : s.window = none := by rcases ht with ht | ht <;> simp [State.window, ha, ht]
  have hrow : s.framerRow = s.deliver (.error .capacityExceeded) := by
    have hpush : ∀ k, s.pushOut [FLAG] k = s.deliver (.error .capacityExceeded) := fun _ =>
      State.pushOut_of_full (by simp) (Nat.lt_succ_of_le ho)
    rcases ht with ht | ht <;> simp only [State.framerRow, ht, hpush]
  exact step_of_sequence hr hw (by simp [State.sequence, ha, hrow])

/-- A body byte that gives a byte for `W`, where `W` is full. -/
theorem State.deframe_of_full {b : Byte} {s : State} (hd : s.dstate = .readingBody) (hb : b ≠ FLAG)
    (ht : (take s.esc b).2 ≠ []) (hw : fmax s.pmax ≤ s.mem.work.length) : s.deframe b = s.fail .capacityExceeded := by
  have hlen := List.length_pos_of_ne_nil ht
  have hp := bufPushAll_of_full (cap := fmax s.pmax) (buf := s.mem.work) ht (by omega)
  simp [State.deframe, hd, hb, hp]

theorem take_ne_nil {e : Bool} {b : Byte} (h : e = true ∨ b ≠ ESC) : (take e b).2 ≠ [] := by
  unfold take
  split
  · simp
  · next he => simp [h.resolve_left he]

/-- An escape pair where `W` is full: the marker gives no byte and is consumed, the operand finds no room. -/
theorem State.rxBytes_pair_of_full {v : Byte} {s : State} (ha : s.active = .decoding) (hd : s.dstate = .readingBody)
    (he : s.esc = false) (hv : v ≠ FLAG) (hw : fmax s.pmax ≤ s.mem.work.length) :
    s.rxBytes [ESC, v] = ({ s.advance with esc := true } : State).fail .capacityExceeded := by
  have htake : take s.esc ESC = (true, []) := by rw [he]; rfl
  have hmarker : s.deframe ESC = { s.advance with esc := true } := by
    rw [State.deframe_body hd (by decide) (.inl (by rw [htake])), htake]
    simp
  have hoperand : ({ s.advance with esc := true } : State).deframe v = State.fail .capacityExceeded _ :=
    State.deframe_of_full hd hv (take_ne_nil (.inl rfl)) hw
  simp only [State.rxBytes_decoding ha, State.deframeAll, hmarker, hoperand]

/-- The step of the machine of R121 that collects a body byte, where `W` is full. -/
theorem step_staged_byte_full {b : Byte} {s : State} (hr : s.resetReq = false) (ha : s.active = .stagedDecoding)
    (hd : s.dstate = .readingBody) (hread : bufRead s.mem.input s.cursor = some b) (hb : b ≠ FLAG)
    (hw : fmax s.pmax ≤ s.mem.work.length) : step s = .next (s.fail .capacityExceeded) := by
  have hrow : s.stagedRow = s.fail .capacityExceeded := by
    simp [State.stagedRow, State.collect, hd, hread, hb, bufPush_eq_none.2 hw]
  exact step_of_sequence hr (window_staged_byte ha hd (drop_of_bufRead hread).2 hb) (by simp [State.sequence, ha, hrow])

/-- Settles O33: each clause is one push that its buffer does not take. -/
theorem fullBufferGivesCapacityExceeded : Obligations.FullBufferGivesCapacityExceeded := by
  refine ⟨fun s d ha ht hfull => ?_, fun s hr ha ht ho => step_framer_delimiter_full hr ha ht ho,
    fun s b ha hd hb hw => ⟨fun he hb' => ?_, fun he => ?_, fun he i hi => ?_⟩,
    fun s b hr ha hd hread hb hw => step_staged_byte_full hr ha hd hread hb hw,
    fun s hr ha hd hw => ?_, fun s p hr hd hp ho => ⟨fun ha hw => ?_, fun ha hu hw => ?_⟩⟩
  · rw [exec_txClass, State.txByte_of_full ha ht hfull]
  · have hbyte := State.deframe_of_full hd hb (take_ne_nil (.inr hb')) hw
    exact congrArg Host.Outcome.next ((State.rxBytes_decoding ha).trans hbyte)
  · have hbyte := State.deframe_of_full hd hb (take_ne_nil (.inl he)) hw
    exact congrArg Host.Outcome.next ((State.rxBytes_decoding ha).trans hbyte)
  · have hpair : ∀ v, v ≠ FLAG → s.rxBytes [ESC, v] = _ := fun v hv => State.rxBytes_pair_of_full ha hd he hv hw
    simp only [List.mem_cons, List.not_mem_nil, or_false] at hi
    rcases hi with rfl | rfl | rfl | rfl | rfl
    · exact congrArg Host.Outcome.next (hpair b hb)
    · exact congrArg Host.Outcome.next (hpair 0x5E#8 (by decide))
    · exact congrArg Host.Outcome.next (hpair 0x5D#8 (by decide))
    · exact congrArg Host.Outcome.next (hpair 0x31#8 (by decide))
    · exact congrArg Host.Outcome.next (hpair 0x33#8 (by decide))
  · rw [step_staged_expectEnd hr ha hd, State.unstuffBody_full hw]
    rfl
  · rw [step_deframer_expectEnd hr ha hd, State.settle_full hw hp ho]
    rfl
  · rw [step_staged_expectEnd hr ha hd, State.unstuffBody_ok hu (by simpa using hw)]
    exact congrArg Host.Outcome.next (State.settle_full rfl hp ho)

/-! ## The room the invariant leaves -/

theorem frameOf_length_le (p : List Byte) : (frameOf p).length ≤ 2 * p.length + 4 := by
  have h := stuff_length_le (p ++ [checksum p])
  simp only [frameOf_eq, List.length_append, List.length_cons, List.length_nil] at h ⊢
  omega

/-- The most bytes the framer may still push to `OUT`: two for every data byte to come and one for a delimiter. -/
def State.framerOutLeft (s : State) : Nat :=
  match s.tstate with
  | .start => 2 * s.mem.input.length + 4
  | .data => 2 * (s.mem.input.length - s.cursor) + 3
  | .cksum => 3
  | .stop => 1
  | .done => 0

/-- What the framer has pushed to `OUT` and may still push stays within `2n + 4` bytes (R151). -/
theorem State.framerInv_output_room {s : State} (h : s.framerInv) :
    s.mem.output.length + s.framerOutLeft ≤ 2 * s.mem.input.length + 4 := by
  obtain ⟨-, -, hph⟩ := h
  cases hs : s.tstate with
  | start =>
    simp only [State.framerOutLeft, hs] at hph ⊢
    obtain ⟨-, -, -, hout⟩ := hph
    simp [hout]
  | data =>
    simp only [State.framerOutLeft, hs] at hph ⊢
    obtain ⟨hcur, -, -, hout⟩ := hph
    have hlen := stuff_length_le (s.mem.input.take s.cursor)
    rw [List.length_take] at hlen
    rw [hout, List.length_cons]
    omega
  | cksum =>
    simp only [State.framerOutLeft, hs] at hph ⊢
    obtain ⟨-, -, -, hout⟩ := hph
    have hlen := stuff_length_le s.mem.input
    rw [hout, List.length_cons]
    omega
  | stop =>
    simp only [State.framerOutLeft, hs] at hph ⊢
    obtain ⟨-, -, -, hout⟩ := hph
    have hlen := stuff_length_le (s.mem.input ++ [checksum s.mem.input])
    rw [List.length_append, List.length_singleton] at hlen
    rw [hout, List.length_cons]
    omega
  | done =>
    simp only [State.framerOutLeft, hs] at hph ⊢
    obtain ⟨-, -, -, hout⟩ := hph
    rw [hout]
    exact frameOf_length_le s.mem.input

/-- The framer's `W` has room for each data byte: it holds a part of the payload. -/
theorem State.framerInv_work_room {s : State} (h : s.framerInv) (hs : s.tstate = .data ∨ s.tstate = .cksum) :
    s.mem.work.length + 1 ≤ fmax s.pmax := by
  obtain ⟨hn, -, hph⟩ := h
  have hlen : s.mem.work.length ≤ s.mem.input.length := by
    rcases hs with hs | hs
    · simp only [hs] at hph
      obtain ⟨-, -, hwork, -⟩ := hph
      rw [hwork]
      exact List.length_take_le' s.cursor s.mem.input
    · simp only [hs] at hph
      obtain ⟨-, -, hwork, -⟩ := hph
      rw [hwork]
  unfold fmax
  omega

theorem bodyHeld_length_le (a : Activity) (body : List Byte) : (bodyHeld a body).2.length ≤ body.length := by
  unfold bodyHeld
  split
  · exact Nat.le_refl _
  · exact takeAll_length_le false body

/-- In `ExpectEnd` both delimiters stand in the input beside the body that `W` is made of, and `OUT` is empty (R156). -/
theorem State.decoderInv_expectEnd {held : List Byte → Bool × List Byte} {s : State}
    (hlen : ∀ body, (held body).2.length ≤ body.length) (h : s.decoderInv held) (hs : s.dstate = .expectEnd) :
    s.mem.work.length + 2 ≤ fmax s.pmax ∧ s.mem.output = [] := by
  obtain ⟨hin, hph⟩ := h
  simp only [hs] at hph
  obtain ⟨-, -, hout, -, body, htake, -, hheld⟩ := hph
  have hcount := congrArg List.length htake
  have hwork := hlen body
  simp only [hheld, List.length_take, List.length_append, List.length_cons, List.length_nil] at hcount hwork
  exact ⟨by omega, hout⟩

/-- A payload that the checks of `ExpectEnd` find in `W`, or in what UNSTUFF makes of it, is no longer than `W`. -/
theorem payload_length_le {w p : List Byte} {a : Byte} (h : w = p ++ [a] ∨ unstuff w = .ok (p ++ [a])) :
    p.length ≤ w.length := by
  have hlen : (p ++ [a]).length ≤ w.length := h.elim (fun h => h ▸ Nat.le_refl _) unstuff_length_le
  rw [List.length_append] at hlen
  omega

/-- Settles O56: the invariant's account of each phase bounds the buffers by the bytes consumed so far. -/
theorem noPushEverOverflows : Obligations.NoPushEverOverflows := by
  intro s h
  refine ⟨State.buffersFit_iff.1 h.1, fun ha => ?_, fun ha => ⟨fun hs => ?_, fun hs => ?_⟩⟩
  · have hinv := ((State.inv_encoding ha).1 h).2
    have hout := State.framerInv_output_room hinv
    have hn : 2 * s.mem.input.length + 4 ≤ fmax s.pmax := by
      have hpayload : s.mem.input.length ≤ s.pmax := hinv.1
      unfold fmax
      omega
    refine ⟨by omega, fun hs => ?_, fun d hs hread => ⟨State.framerInv_work_room hinv (.inl hs), ?_⟩,
      fun hs => ⟨State.framerInv_work_room hinv (.inr hs), ?_⟩⟩
    · rcases hs with hs | hs <;> simp only [State.framerOutLeft, hs] at hout <;> omega
    · have hcur := (drop_of_bufRead hread).1
      have hemit := emit_length_le d
      simp only [State.framerOutLeft, hs] at hout
      omega
    · have hemit := emit_length_le (not8 s.acc)
      simp only [State.framerOutLeft, hs] at hout
      omega
  · exact State.decoderInv_work_room (bodyHeld_length_le _) ((State.inv_decoder ha).1 h).2 hs
  · obtain ⟨hwork, hout⟩ := State.decoderInv_expectEnd (bodyHeld_length_le _) ((State.inv_decoder ha).1 h).2 hs
    have htake := takeAll_length_le false s.mem.work
    refine ⟨hwork, by omega, fun p a hp => ?_⟩
    have hlen := payload_length_le hp
    rw [hout, List.length_nil]
    omega

end Sys2Proof.Machine
end

section
/-! PROOFS. The encoding (spec/30_encoding.md): what the decoder reads of an encoding and what an instruction it reads is
encoded as; escape operands and frames as byte sequences (R50, R52, R61, R63); what the transmit classes, the receive
symbols and the escape pairs do to the framer and the deframer; and which instruction a step runs. -/

namespace Sys2Proof.Machine

/-! ## STUFF and UNSTUFF -/

theorem emit_of_reserved {d : Byte} (h : isReserved d = true) : emit d = [ESC, d ^^^ MASK] := if_pos h

theorem emit_of_not_reserved {d : Byte} (h : isReserved d = false) : emit d = [d] := by
  simp [emit, h]

/-- The reserved bytes (R6). -/
theorem isReserved_iff {d : Byte} : isReserved d = true ↔ d = FLAG ∨ d = ESC ∨ d = XON ∨ d = XOFF := by
  simp [isReserved, or_assoc]

/-- A reserved byte is replaced by a marker and its canonical operand, so the Stuffer emits no `FLAG` (R93). -/
theorem flag_not_mem_emit (d : Byte) : FLAG ∉ emit d := by
  cases h : isReserved d with
  | true =>
    rw [emit_of_reserved h]
    rcases isReserved_iff.1 h with rfl | rfl | rfl | rfl <;> decide
  | false =>
    rw [emit_of_not_reserved h, List.mem_singleton]
    rintro rfl
    cases h

theorem flag_not_mem_stuff (x : List Byte) : FLAG ∉ stuff x := by
  induction x with
  | nil => exact List.not_mem_nil
  | cons d rest ih => simpa [stuff, ih] using flag_not_mem_emit d

/-- The Unstuffer makes the byte itself of what the Stuffer emits for it, and no escape is pending then (R98). -/
theorem takeAll_emit (d : Byte) : takeAll false (emit d) = (false, [d]) := by
  cases h : isReserved d with
  | true =>
    rw [emit_of_reserved h]
    simp [takeAll, take]
  | false =>
    have hd : d ≠ ESC := by
      rintro rfl
      cases h
    rw [emit_of_not_reserved h, takeAll_singleton]
    simp [take, hd]

theorem takeAll_stuff (x : List Byte) : takeAll false (stuff x) = (false, x) := by
  induction x with
  | nil => rfl
  | cons d rest ih => simp [stuff, takeAll_append, takeAll_emit, ih]

theorem unstuff_stuff (x : List Byte) : unstuff (stuff x) = .ok x := unstuff_of_takeAll (takeAll_stuff x)

/-! ## The decoder reads the encoding -/

theorem txClass_of_not_reserved {d : Byte} (h : isReserved d = false) : txClass d = .txLiteral d := by
  simp only [isReserved, Bool.or_eq_false_iff] at h
  obtain ⟨⟨⟨hflag, hesc⟩, hxon⟩, hxoff⟩ := h
  simp [txClass, hflag, hesc, hxon, hxoff]

theorem rxClass_of_ne {b : Byte} (h : b ≠ ESC) : rxClass b = .rxLiteral b := by
  simp [rxClass, h]

theorem pairClass_of_not_canonical {v : Byte} (h : isCanonicalOperand v = false) : pairClass v = .escPair v := by
  simp only [isCanonicalOperand, Bool.or_eq_false_iff] at h
  obtain ⟨⟨⟨hflag, hesc⟩, hxon⟩, hxoff⟩ := h
  simp [pairClass, hflag, hesc, hxon, hxoff]

theorem decodeBody_stuff (p : List Byte) : decodeBody (stuff (p ++ [checksum p])) = .ok p := by
  rw [decodeBody_of_ok (unstuff_stuff _), verdict_match]

/-- The decoder reads a frame up to its terminating delimiter, the first `FLAG` after the start (R50, R122). -/
theorem decode_frameOf (p rest : List Byte) : decode .frame (frameOf p ++ rest) = .ok (.frame p, rest) := by
  have hf : frameOf p ++ rest = FLAG :: (stuff (p ++ [checksum p]) ++ FLAG :: rest) := by simp [frameOf_eq]
  simp [hf, decode, splitBody_flag (flag_not_mem_stuff _), decodeBody_stuff]

/-- In every context but a request the decoder takes just the encoding from the front of the bytes. -/
theorem decode_encode_append {i : Instr} {c : Ctx} {bs : List Byte} (hi : i.wf = true) (he : encode i = some (c, bs))
    (hc : c ≠ .request) (rest : List Byte) : decode c (bs ++ rest) = .ok (i, rest) := by
  cases i with
  | encode payload | decode inp =>
    cases he
    exact absurd rfl hc
  | checksum s | stuff s | unstuff s => cases he
  | frame p =>
    cases he
    exact decode_frameOf p rest
  | txLiteral d =>
    cases he
    rw [List.singleton_append, decode_tx, txClass_of_not_reserved (by simpa [Instr.wf] using hi)]
  | rxLiteral b =>
    cases he
    rw [List.singleton_append, decode_unstuff, rxClass_of_ne (by simpa [Instr.wf] using hi)]
  | escPair v =>
    cases he
    exact (decode_pair v rest).trans (by rw [pairClass_of_not_canonical (by simpa [Instr.wf] using hi)])
  | txEscFlag | txEscEsc | txEscXon | txEscXoff | rxStart | rxStop | rxEsc | rxOperand v | escPairFlag | escPairEsc
  | escPairXon | escPairXoff =>
    cases he
    rfl

/-- A request is read from all of its bytes. -/
theorem decode_encode_request {i : Instr} {bs : List Byte} (he : encode i = some (.request, bs)) :
    decode .request bs = .ok (i, []) := by
  cases i <;> cases he <;> rfl

/-- Settles O2, by the context of the encoding: a request, or one that bytes may follow. -/
theorem decodeOfEncodeIsTheInstruction : Obligations.DecodeOfEncodeIsTheInstruction := by
  intro i c bs hi he
  refine ⟨?_, decode_encode_append hi he⟩
  by_cases hc : c = .request
  · subst hc
    exact decode_encode_request he
  · simpa using decode_encode_append hi he hc []

/-! ## What the decoder consumes -/

/-- A row of the tables whose encoding is `used`. -/
def EncodedAs (i : Instr) (used : List Byte) : Prop := i.wf = true ∧ ∃ c, encode i = some (c, used)

theorem txClass_encodedAs (d : Byte) : EncodedAs (txClass d) [d] := by
  cases h : isReserved d with
  | true => rcases isReserved_iff.1 h with rfl | rfl | rfl | rfl <;> exact ⟨rfl, _, rfl⟩
  | false => exact txClass_of_not_reserved h ▸ ⟨by simp [Instr.wf, h], _, rfl⟩

theorem rxClass_encodedAs (b : Byte) : EncodedAs (rxClass b) [b] := by
  by_cases h : b = ESC
  · subst h
    exact ⟨rfl, _, rfl⟩
  · exact rxClass_of_ne h ▸ ⟨by simp [Instr.wf, h], _, rfl⟩

theorem rxBodyClass_encodedAs (b : Byte) : EncodedAs (rxBodyClass b) [b] := by
  by_cases h : b = FLAG
  · subst h
    exact ⟨rfl, _, rfl⟩
  · simpa [rxBodyClass, h] using rxClass_encodedAs b

theorem rxEscapedClass_encodedAs (b : Byte) : EncodedAs (rxEscapedClass b) [b] := by
  by_cases h : b = FLAG
  · subst h
    exact ⟨rfl, _, rfl⟩
  · have ho : EncodedAs (.rxOperand b) [b] := ⟨rfl, _, rfl⟩
    simpa [rxEscapedClass, h] using ho

theorem isCanonicalOperand_iff {v : Byte} :
    isCanonicalOperand v = true ↔ v = 0x5E#8 ∨ v = 0x5D#8 ∨ v = 0x31#8 ∨ v = 0x33#8 := by
  simp [isCanonicalOperand, or_assoc]

theorem pairClass_encodedAs (v : Byte) : EncodedAs (pairClass v) [ESC, v] := by
  cases h : isCanonicalOperand v with
  | true => rcases isCanonicalOperand_iff.1 h with rfl | rfl | rfl | rfl <;> exact ⟨rfl, _, rfl⟩
  | false => exact pairClass_of_not_canonical h ▸ ⟨by simp [Instr.wf, h], _, rfl⟩

/-- The next byte counts as an operand in the body if it is no delimiter (R63). -/
theorem operandInBody_eq_some {rest : List Byte} {v : Byte} :
    operandInBody rest = some v ↔ rest.head? = some v ∧ v ≠ FLAG := by
  cases rest with
  | nil => simp [operandInBody]
  | cons w rest =>
    by_cases h : w = FLAG
    · simp only [operandInBody, h, beq_self_eq_true, if_true, List.head?_cons, Option.some.injEq, reduceCtorEq,
        false_iff, not_and, not_not]
      exact Eq.symm
    · simp only [operandInBody, beq_eq_false_iff_ne.2 h, Bool.false_eq_true, if_false, List.head?_cons,
        Option.some.injEq]
      exact ⟨fun hv => ⟨hv, hv ▸ h⟩, And.left⟩

/-- Where pairs are taken whole, the bytes consumed are the pair or the one byte that the instruction stands for. -/
theorem pairFirst_encodedAs {b : Byte} {rest : List Byte} {next : Option Byte} {other : Instr}
    (hn : ∀ v, next = some v → rest.head? = some v) (ho : EncodedAs other [b]) :
    ∃ used, EncodedAs (pairFirst b next other).1 used ∧
      b :: rest = used ++ (b :: rest).drop (pairFirst b next other).2 := by
  cases next with
  | none => exact ⟨[b], ho, rfl⟩
  | some v =>
    by_cases hb : b = ESC
    · subst hb
      obtain ⟨rest', rfl⟩ := List.head?_eq_some_iff.1 (hn v rfl)
      exact ⟨[ESC, v], pairClass_encodedAs v, rfl⟩
    · rw [pairFirst_other hb]
      exact ⟨[b], ho, rfl⟩

/-- What the decoder consumes is the encoding of what it reads, context by context. -/
theorem decode_encodedAs {c : Ctx} {bs rest : List Byte} {i : Instr} (hc : c ≠ .frame)
    (hd : decode c bs = .ok (i, rest)) : ∃ used, EncodedAs i used ∧ bs = used ++ rest := by
  cases bs with
  | nil => cases c <;> cases hd
  | cons b bs =>
    cases c with
    | request =>
      simp only [decode] at hd
      split at hd
      · next hb =>
        cases hd
        exact ⟨b :: bs, ⟨rfl, _, by rw [beq_iff_eq.1 hb]; rfl⟩, by simp⟩
      · split at hd
        · next hb =>
          cases hd
          exact ⟨b :: bs, ⟨rfl, _, by rw [beq_iff_eq.1 hb]; rfl⟩, by simp⟩
        · cases hd
    | tx =>
      cases hd
      exact ⟨[b], txClass_encodedAs b, rfl⟩
    | rxStart =>
      by_cases hb : b = FLAG
      · subst hb
        cases hd
        exact ⟨[FLAG], ⟨rfl, _, rfl⟩, rfl⟩
      · rw [decode_rxStart_other hb] at hd
        cases hd
    | rxBody =>
      cases hd
      exact ⟨[b], rxBodyClass_encodedAs b, rfl⟩
    | rxPairs =>
      cases hd
      exact pairFirst_encodedAs (fun v hv => (operandInBody_eq_some.1 hv).1) (rxBodyClass_encodedAs b)
    | rxEscaped =>
      cases hd
      exact ⟨[b], rxEscapedClass_encodedAs b, rfl⟩
    | unstuff =>
      cases hd
      exact ⟨[b], rxClass_encodedAs b, rfl⟩
    | unstuffPairs =>
      cases hd
      exact pairFirst_encodedAs (fun v hv => hv) (rxClass_encodedAs b)
    | unstuffOperand =>
      cases hd
      exact ⟨[b], ⟨rfl, _, rfl⟩, rfl⟩
    | pair =>
      cases bs with
      | nil => cases hd
      | cons v bs =>
        simp only [decode] at hd
        split at hd
        · next hb =>
          cases hd
          exact ⟨[b, v], beq_iff_eq.1 hb ▸ pairClass_encodedAs v, rfl⟩
        · cases hd
    | frame => exact absurd rfl hc

/-- Settles O3: the bytes consumed are the row's encoding in every context but the wire frame. -/
theorem decodedBytesAreTheEncoding : Obligations.DecodedBytesAreTheEncoding := by
  intro c bs rest i hc hd
  obtain ⟨used, ⟨hwf, c', he⟩, hbs⟩ := decode_encodedAs hc hd
  exact ⟨hwf, c', used, he, hbs⟩

/-- Settles O1: the decoder runs on each word. -/
theorem wordsOfEveryFamilyDecode : Obligations.WordsOfEveryFamilyDecode := by
  unfold Obligations.WordsOfEveryFamilyDecode
  decide

/-- Settles O4: in each of these contexts a first byte has a class. -/
theorem everyByteIsClassified : Obligations.EveryByteIsClassified := by
  refine ⟨fun c b rest hc => ?_, fun b rest hb => decode_rxStart_other hb rest, rfl, rfl⟩
  simp only [List.mem_cons, List.not_mem_nil, or_false] at hc
  rcases hc with rfl | rfl | rfl | rfl | rfl | rfl | rfl
  · exact ⟨_, _, decode_tx b rest⟩
  · exact ⟨_, _, decode_rxBody b rest⟩
  · exact ⟨_, _, decode_rxPairs b rest⟩
  · exact ⟨_, _, decode_rxEscaped b rest⟩
  · exact ⟨_, _, decode_unstuff b rest⟩
  · exact ⟨_, _, decode_unstuffPairs b rest⟩
  · exact ⟨_, _, decode_unstuffOperand b rest⟩

/-! ## Escape operands -/

theorem unstuff_eq_ok {x u : List Byte} : unstuff x = .ok u ↔ takeAll false x = (false, u) := by
  refine ⟨fun h => ?_, unstuff_of_takeAll⟩
  unfold unstuff unstuffFinish at h
  split at h
  · cases h
  · next he =>
    cases h
    exact Prod.ext (by simpa using he) rfl

/-- Where no escape is pending at the cut, the two parts are unstuffed on their own (R99). -/
theorem unstuff_append_of_ok {x y u w : List Byte} (hx : unstuff x = .ok u) (hy : unstuff y = .ok w) :
    unstuff (x ++ y) = .ok (u ++ w) := by
  rw [unstuff_eq_ok] at hx hy ⊢
  simp [takeAll_append, hx, hy]

theorem unstuff_pair (v : Byte) : unstuff [ESC, v] = .ok [v ^^^ MASK] := rfl

/-- Settles O15: the pair and what stands on either side of it are unstuffed on their own. -/
theorem anyOperandIsAccepted : Obligations.AnyOperandIsAccepted :=
  ⟨fun _ _ _ _ v hx hy => unstuff_append_of_ok (unstuff_append_of_ok hx (unstuff_pair v)) hy,
    unstuff_pair _, unstuff_pair _, unstuff_pair _, unstuff_pair _⟩

/-- One byte more opens a pair exactly if it is a marker and none was pending (R95). -/
theorem takeAll_append_singleton_fst (x : List Byte) (b : Byte) :
    (takeAll false (x ++ [b])).1 = (!(takeAll false x).1 && b == ESC) := by
  rw [takeAll_append, takeAll_singleton]
  cases (takeAll false x).1 <;> cases hb : b == ESC <;> simp [take, hb]

theorem trailingEscRun_append_singleton (x : List Byte) (b : Byte) :
    trailingEscRun (x ++ [b]) = if b = ESC then trailingEscRun x + 1 else 0 := by
  by_cases h : b = ESC <;> simp [trailingEscRun, h]

/-- An escape is pending at the end exactly if the run of markers there is of odd length (R96). -/
theorem takeAll_open_iff (x : List Byte) : (takeAll false x).1 = true ↔ trailingEscRun x % 2 = 1 := by
  induction x using List.reverseRecOn with
  | nil => simp [takeAll, trailingEscRun]
  | append_singleton x b ih =>
    rw [takeAll_append_singleton_fst, trailingEscRun_append_singleton]
    by_cases hb : b = ESC
    · cases he : (takeAll false x).1 <;> simp [hb, he] at ih ⊢ <;> omega
    · simp [hb]

/-- A marker after an even run of markers is left open (R96). -/
theorem unstuff_append_marker {x : List Byte} (h : trailingEscRun x % 2 = 0) :
    unstuff (x ++ [ESC]) = .error .truncatedEscape := by
  refine unstuff_of_open ((takeAll_open_iff _).2 ?_)
  rw [trailingEscRun_append_singleton, if_pos rfl]
  omega

theorem exec_decode_of_idle {s : State} (h : s.active = .idle) (inp : List Byte) :
    exec (.decode inp) s = .next (s.deliver (decodeFrame s.pmax inp)) := State.atomic_of_idle h

/-- Settles O24: the body that the second `FLAG` ends has an open marker at its end, or is empty. -/
theorem flagIsNeverAnOperandInDecode : Obligations.FlagIsNeverAnOperandInDecode := by
  intro body rest s ha
  refine ⟨fun hflag hrun hlen => ?_, fun hlen => ?_⟩
  · have hinp : FLAG :: body ++ ESC :: FLAG :: rest = FLAG :: (body ++ [ESC]) ++ FLAG :: rest := by simp
    have hne : FLAG ≠ ESC := by decide
    have hbody : FLAG ∉ body ++ [ESC] := by simp [hflag, hne]
    rw [exec_decode_of_idle ha, hinp, decodeFrame_terminated (by simp; omega) hbody,
      decodeBody_of_open (unstuff_append_marker hrun)]
  · have hd : decodeFrame s.pmax (FLAG :: FLAG :: rest) = decodeBody [] :=
      decodeFrame_terminated (body := []) (by simp; omega) List.not_mem_nil
    rw [exec_decode_of_idle ha, hd]
    rfl

/-! ## The fields and the length of a frame -/

theorem emit_length (d : Byte) : (emit d).length = if isReserved d then 2 else 1 := by
  unfold emit
  split <;> rfl

/-- Every reserved byte takes one byte more (R91). -/
theorem stuff_length (x : List Byte) : (stuff x).length = x.length + reservedCount x := by
  induction x with
  | nil => rfl
  | cons d rest ih =>
    simp only [stuff, reservedCount, List.length_append, List.length_cons, emit_length, ih]
    split <;> omega

theorem reservedCount_le (x : List Byte) : reservedCount x ≤ x.length := by
  induction x with
  | nil => exact Nat.le_refl 0
  | cons d rest ih =>
    simp only [reservedCount, List.length_cons]
    split <;> omega

/-- Settles O16: a field is as long as its bytes and one more for each reserved one. -/
theorem frameHasItsFourFields : Obligations.FrameHasItsFourFields := fun p s ha =>
  ⟨State.atomic_of_idle ha, stuff_length p, by rw [stuff_singleton, emit_length], (stuff_append _ _).symm⟩

/-- The exact length of a frame (R52). -/
theorem frameOf_length (p : List Byte) :
    (frameOf p).length = p.length + 3 + reservedCount (p ++ [checksum p]) := by
  simp only [frameOf_eq, List.length_append, List.length_cons, List.length_nil, stuff_length]
  omega

theorem reservedCount_append (x y : List Byte) : reservedCount (x ++ y) = reservedCount x + reservedCount y := by
  induction x with
  | nil => exact (Nat.zero_add _).symm
  | cons d rest ih => simp only [List.cons_append, reservedCount, ih, Nat.add_assoc]

theorem reservedCount_replicate {d : Byte} (h : isReserved d = true) (n : Nat) :
    reservedCount (List.replicate n d) = n := by
  induction n with
  | zero => rfl
  | succ n ih =>
    simp only [List.replicate_succ, reservedCount, h, if_true, ih]
    omega

theorem absorbAll_replicate (acc d : Byte) (n : Nat) :
    absorbAll acc (List.replicate n d) = acc + BitVec.ofNat 8 n * d := by
  induction n generalizing acc with
  | zero => simp [absorbAll]
  | succ n ih =>
    rw [List.replicate_succ, absorbAll, ih, BitVec.ofNat_add, BitVec.add_mul, BitVec.one_mul, BitVec.add_assoc,
      BitVec.add_comm d]

/-- The checksum of 127 `FLAG` bytes is `ESC`, a reserved byte like all of the payload's (R52). -/
theorem checksum_replicate_flag : checksum (List.replicate 127 FLAG) = ESC := by
  rw [checksum, absorbAll_replicate]
  rfl

/-- Settles O17: the bounds are the exact length with no byte reserved and with every byte reserved. -/
theorem frameLengthLaw : Obligations.FrameLengthLaw := by
  refine ⟨fun p => ⟨frameOf_length p, ?_, frameOf_length_le p, fun m hm => ?_⟩, rfl, rfl, rfl, ?_⟩
  · rw [frameOf_length]
    omega
  · have hlen := frameOf_length_le p
    unfold fmax
    omega
  · rw [frameOf_length, checksum_replicate_flag, reservedCount_append, reservedCount_replicate rfl,
      List.length_replicate]
    rfl

/-! ## The transmit classes in the framer -/

/-- A payload byte for which both buffers have room (R150). -/
theorem State.txByte_payload {d : Byte} {bs : List Byte} {s : State} (ha : s.active = .encoding)
    (ht : s.tstate = .data) (he : emit d = bs) (hw : s.mem.work.length + 1 ≤ fmax s.pmax)
    (ho : s.mem.output.length + bs.length ≤ fmax s.pmax) :
    s.txByte d = { s with
      acc := s.acc + d, cursor := s.cursor + 1,
      mem := { s.mem with work := s.mem.work ++ [d], output := s.mem.output ++ bs } } := by
  subst he
  rw [State.txByte_data ha ht, State.pushData_of_fits hw ho]
  rfl

/-- The checksum byte, with the same room (R150). -/
theorem State.txByte_checksum {d : Byte} {bs : List Byte} {s : State} (ha : s.active = .encoding)
    (ht : s.tstate = .cksum) (he : emit d = bs) (hw : s.mem.work.length + 1 ≤ fmax s.pmax)
    (ho : s.mem.output.length + bs.length ≤ fmax s.pmax) :
    s.txByte d = { s with
      tstate := .stop, mem := { s.mem with work := s.mem.work ++ [d], output := s.mem.output ++ bs } } := by
  subst he
  rw [State.txByte_cksum ha ht, State.pushData_of_fits hw ho]

theorem emit_of_txLiteral_wf {d : Byte} (h : (Instr.txLiteral d).wf = true) : emit d = [d] :=
  emit_of_not_reserved (by simpa [Instr.wf] using h)

/-- The five classes of R53, where the Stuffer given a byte makes `next` of the byte and what it emits, if that fits. -/
theorem exec_txClasses {s : State} {next : Byte → List Byte → State} (fits : Nat → Prop)
    (h : ∀ d bs, emit d = bs → fits bs.length → s.txByte d = next d bs) :
    (fits 2 →
      exec .txEscFlag s = .next (next 0x7E#8 [0x7D#8, 0x5E#8]) ∧
      exec .txEscEsc s = .next (next 0x7D#8 [0x7D#8, 0x5D#8]) ∧
      exec .txEscXon s = .next (next 0x11#8 [0x7D#8, 0x31#8]) ∧
      exec .txEscXoff s = .next (next 0x13#8 [0x7D#8, 0x33#8])) ∧
    (∀ d, (Instr.txLiteral d).wf = true → fits 1 → exec (.txLiteral d) s = .next (next d [d])) :=
  ⟨fun hfit =>
    ⟨congrArg Host.Outcome.next (h 0x7E#8 [0x7D#8, 0x5E#8] rfl hfit),
      congrArg Host.Outcome.next (h 0x7D#8 [0x7D#8, 0x5D#8] rfl hfit),
      congrArg Host.Outcome.next (h 0x11#8 [0x7D#8, 0x31#8] rfl hfit),
      congrArg Host.Outcome.next (h 0x13#8 [0x7D#8, 0x33#8] rfl hfit)⟩,
    fun d hd hfit => congrArg Host.Outcome.next (h d [d] (emit_of_txLiteral_wf hd) hfit)⟩

/-- Settles O30: the byte of each class is stored as a payload byte. -/
theorem transmitPayloadByte : Obligations.TransmitPayloadByte := by
  intro s ha ht hw
  have h := exec_txClasses (fun n => s.mem.output.length + n ≤ fmax s.pmax) fun d bs he ho =>
    State.txByte_payload ha ht he hw ho
  exact h

/-- Settles O31: the byte of each class is stored as the checksum byte. -/
theorem transmitChecksumByte : Obligations.TransmitChecksumByte := by
  intro s ha ht hw
  have h := exec_txClasses (fun n => s.mem.output.length + n ≤ fmax s.pmax) fun d bs he ho =>
    State.txByte_checksum ha ht he hw ho
  exact h

/-! ## The receive symbols -/

theorem State.rxBytes_byte_decoding {s : State} (ha : s.active = .decoding) (b : Byte) :
    s.rxBytes [b] = s.deframe b := State.rxBytes_decoding ha

theorem State.rxBytes_byte_stagedDecoding {s : State} (ha : s.active = .stagedDecoding) (b : Byte) :
    s.rxBytes [b] = s.collect b := State.rxBytes_stagedDecoding ha

/-- Any byte but `FLAG` in `ExpectStart`, in either machine (R121, R155). -/
theorem State.rxBytes_noStart {s : State} {b : Byte} (ha : s.active = .decoding ∨ s.active = .stagedDecoding)
    (hd : s.dstate = .expectStart) (hb : b ≠ FLAG) : s.rxBytes [b] = s.fail .missingStartDelimiter := by
  rcases ha with ha | ha
  · rw [State.rxBytes_byte_decoding ha, State.deframe_expectStart hd, if_neg (by simpa using hb)]
  · rw [State.rxBytes_byte_stagedDecoding ha, State.collect_expectStart hd, if_neg (by simpa using hb)]

/-- The terminating delimiter, in the deframer with no escape pending (R121, R155). -/
theorem State.rxBytes_stop {s : State} (ha : s.active = .decoding ∨ s.active = .stagedDecoding)
    (hd : s.dstate = .readingBody) (he : s.esc = false ∨ s.active = .stagedDecoding) :
    s.rxBytes [FLAG] = { s.advance with dstate := .expectEnd } := by
  rcases ha with ha | ha
  · have he' : s.esc = false := he.resolve_right (by simp [ha])
    rw [State.rxBytes_byte_decoding ha, State.deframe_flag hd, if_neg (by simp [he'])]
  · rw [State.rxBytes_byte_stagedDecoding ha, State.collect_flag hd]

/-- Settles O36: a delimiter is accepted, is missing, or finds a marker open. -/
theorem delimitersMoveTheDecoder : Obligations.DelimitersMoveTheDecoder := by
  intro s ha
  refine ⟨fun hd => ⟨?_, fun b hb => ?_⟩, fun hd he => ?_, fun hd he ha' => ?_⟩
  · exact congrArg Host.Outcome.next (State.rxBytes_flag_expectStart ha hd)
  · exact congrArg Host.Outcome.next (State.rxBytes_noStart ha hd hb)
  · exact congrArg Host.Outcome.next (State.rxBytes_stop ha hd he)
  · have hflag := State.deframe_flag hd
    rw [if_pos he] at hflag
    exact congrArg Host.Outcome.next ((State.rxBytes_byte_decoding ha' FLAG).trans hflag)

theorem State.deframeAll_append (x y : List Byte) (s : State) :
    s.deframeAll (x ++ y) = (s.deframeAll x).deframeAll y := by
  induction x generalizing s with
  | nil => rfl
  | cons b rest ih => exact ih (s.deframe b)

theorem State.collectAll_append (x y : List Byte) (s : State) :
    s.collectAll (x ++ y) = (s.collectAll x).collectAll y := by
  induction x generalizing s with
  | nil => rfl
  | cons b rest ih => exact ih (s.collect b)

theorem State.takeAlone_append (x y : List Byte) (s : State) :
    s.takeAlone (x ++ y) = (s.takeAlone x).takeAlone y := by
  simp [State.takeAlone, takeAll_append]

/-- Received bytes act one after the other, whatever unit has them: no byte changes which it is (R57). -/
theorem State.rxBytes_append (x y : List Byte) (s : State) : s.rxBytes (x ++ y) = (s.rxBytes x).rxBytes y := by
  have hact := (State.rxBytes_keeps x s).active_eq
  cases ha : s.active with
  | decoding =>
    rw [State.rxBytes_decoding (hact.trans ha), State.rxBytes_decoding ha, State.rxBytes_decoding ha,
      State.deframeAll_append]
  | stagedDecoding =>
    rw [State.rxBytes_stagedDecoding (hact.trans ha), State.rxBytes_stagedDecoding ha,
      State.rxBytes_stagedDecoding ha, State.collectAll_append]
  | unstuffing =>
    rw [State.rxBytes_unstuffing (hact.trans ha), State.rxBytes_unstuffing ha, State.rxBytes_unstuffing ha,
      State.takeAlone_append, List.length_append, ← Nat.add_assoc]
    rfl
  | idle | encoding | checksumming | stuffing => simp [State.rxBytes, ha, State.takeAlone_append]

/-- Settles O37: `exec` gives the unit the bytes of the symbol and nothing else of it. -/
theorem symbolsActByTheirBytes : Obligations.SymbolsActByTheirBytes := fun s b =>
  ⟨rfl, rfl, rfl, rfl, ⟨s.rxBytes [ESC], rfl, congrArg Host.Outcome.next (State.rxBytes_append [ESC] [b] s)⟩,
    rfl, rfl, rfl, rfl, exec_txClass b s⟩

/-! ## Body symbols and escape pairs in the deframer -/

theorem take_marker : take false ESC = (true, []) := rfl

theorem take_literal {b : Byte} (h : b ≠ ESC) : take false b = (false, [b]) := by
  simp [take, h]

theorem take_operand (v : Byte) : take true v = (false, [v ^^^ MASK]) := rfl

/-- A marker opens a pair and gives no byte (R155). -/
theorem State.deframe_marker {s : State} (hd : s.dstate = .readingBody) (he : s.esc = false) :
    s.deframe ESC = { s.advance with esc := true } := by
  have ht : take s.esc ESC = (true, []) := he ▸ take_marker
  rw [State.deframe_body hd (by decide) (.inl (by rw [ht])), ht]
  simp

/-- A byte that is no marker is appended as it is (R155). -/
theorem State.deframe_literal {b : Byte} {s : State} (hd : s.dstate = .readingBody) (he : s.esc = false)
    (hflag : b ≠ FLAG) (hesc : b ≠ ESC) (hw : s.mem.work.length + 1 ≤ fmax s.pmax) :
    s.deframe b = { s.advance with mem := { s.mem with work := s.mem.work ++ [b] } } := by
  have ht : take s.esc b = (false, [b]) := he ▸ take_literal hesc
  rw [State.deframe_body hd hflag (.inr (by simpa [ht] using hw)), ht, ← he]
  rfl

/-- The operand of an open marker is appended with bit 5 inverted, and the pair is closed (R155). -/
theorem State.deframe_operand {v : Byte} {s : State} (hd : s.dstate = .readingBody) (he : s.esc = true)
    (hflag : v ≠ FLAG) (hw : s.mem.work.length + 1 ≤ fmax s.pmax) :
    s.deframe v = { s.advance with esc := false, mem := { s.mem with work := s.mem.work ++ [v ^^^ MASK] } } := by
  have ht : take s.esc v = (false, [v ^^^ MASK]) := he ▸ take_operand v
  rw [State.deframe_body hd hflag (.inr (by simpa [ht] using hw)), ht]

/-- The step of the machine of R121 on a body byte: it is collected, whatever byte it is. -/
theorem step_staged_byte {b : Byte} {s : State} (hr : s.resetReq = false) (ha : s.active = .stagedDecoding)
    (hd : s.dstate = .readingBody) (hread : bufRead s.mem.input s.cursor = some b) (hb : b ≠ FLAG) :
    step s = .next (s.collect b) :=
  step_of_sequence hr (window_staged_byte ha hd (drop_of_bufRead hread).2 hb)
    (by simp [State.sequence, State.stagedRow, ha, hd, hread])

/-- Settles O38: a marker, a literal and an operand in the deframer, and a collected byte in R121's machine. -/
theorem bodySymbolsFillTheBody : Obligations.BodySymbolsFillTheBody := by
  intro s hd
  refine ⟨fun ha he => ?_, fun ha b hwf hb he hw => ?_, fun ha v hv he hw => ?_, fun ha hr b hread hb hw => ?_⟩
  · exact congrArg Host.Outcome.next ((State.rxBytes_byte_decoding ha ESC).trans (State.deframe_marker hd he))
  · have hesc : b ≠ ESC := by simpa [Instr.wf] using hwf
    exact congrArg Host.Outcome.next
      ((State.rxBytes_byte_decoding ha b).trans (State.deframe_literal hd he hb hesc hw))
  · exact congrArg Host.Outcome.next ((State.rxBytes_byte_decoding ha v).trans (State.deframe_operand hd he hv hw))
  · rw [step_staged_byte hr ha hd hread hb, State.collect_body hd hb hw]
    rfl

/-- A pair is its marker and then its operand: the data byte is appended, and no escape is pending after it, as none was
before it. -/
theorem State.rxBytes_pair {v : Byte} {s : State} (ha : s.active = .decoding) (hd : s.dstate = .readingBody)
    (he : s.esc = false) (hv : v ≠ FLAG) (hw : s.mem.work.length + 1 ≤ fmax s.pmax) :
    s.rxBytes [ESC, v] = { s with
      cursor := s.cursor + 2, mem := { s.mem with work := s.mem.work ++ [v ^^^ MASK] } } := by
  have hoperand := State.deframe_operand (s := { s.advance with esc := true }) hd rfl hv hw
  simp only [State.rxBytes_decoding ha, State.deframeAll, State.deframe_marker hd he, hoperand, ← he]
  rfl

/-- A marker before `FLAG` is consumed and left open (R63). -/
theorem State.rxBytes_marker_flag {s : State} (ha : s.active = .decoding) (hd : s.dstate = .readingBody)
    (he : s.esc = false) :
    s.rxBytes [ESC, FLAG] = ({ s.advance with esc := true } : State).fail .truncatedEscape := by
  have hflag := State.deframe_flag (s := { s.advance with esc := true }) hd
  simp only [State.rxBytes_decoding ha, State.deframeAll, State.deframe_marker hd he, hflag, if_true]

/-- Settles O39: the data byte of each pair is its operand with bit 5 inverted. -/
theorem escapePairsFillTheBody : Obligations.EscapePairsFillTheBody := by
  intro s ha hd he hw
  have pair := fun v (hv : v ≠ FLAG) =>
    congrArg (Host.Outcome.next (φ := Fault) (ρ := Refusal)) (State.rxBytes_pair ha hd he hv hw)
  exact ⟨pair 0x5E#8 (by decide), pair 0x5D#8 (by decide), pair 0x31#8 (by decide), pair 0x33#8 (by decide), pair,
    congrArg Host.Outcome.next (State.rxBytes_marker_flag ha hd he)⟩

/-! ## Which instruction a step runs -/

/-- A request leaves the caller's list and is run. -/
theorem step_of_request {s : State} {op : BitVec 1} {x : List Byte} {q : List Command} {i : Instr}
    (hr : s.resetReq = false) (ha : s.active = .idle) (hp : s.pending = .request op x :: q)
    (hd : decode .request (selectorByte op :: x) = .ok (i, [])) : step s = exec i { s with pending := q } := by
  have hc : s.consume = { s with pending := q } := by simp [State.consume_eq, ha, hp]
  rw [step_of_instr (State.fetch_decoded hr (window_request ha hp) hd), hc]

/-- An instruction that a row gives, where no bytes are presented. -/
theorem step_of_sequence_instr {s t : State} {i : Instr} (hr : s.resetReq = false) (hw : s.window = none)
    (hs : s.sequence = .instr i t) : step s = exec i t :=
  step_of_instr (by rw [State.fetch_sequence hr hw, hs])

theorem step_of_unit {s : State} {u : Leaf} {x : List Byte} {q : List Command} (hr : s.resetReq = false)
    (ha : s.active = .idle) (hp : s.pending = .unit u x :: q) : step s = exec (u.instr x) { s with pending := q } :=
  step_of_sequence_instr hr (by simp [State.window, ha, hp]) (by simp [State.sequence, State.idleRow, ha, hp])

theorem step_of_frame {s : State} {x : List Byte} {q : List Command} (hr : s.resetReq = false)
    (ha : s.active = .idle) (hp : s.pending = .frame x :: q) : step s = exec (.frame x) { s with pending := q } :=
  step_of_sequence_instr hr (by simp [State.window, ha, hp]) (by simp [State.sequence, State.idleRow, ha, hp])

theorem step_payload {s : State} {d : Byte} (hr : s.resetReq = false) (ha : s.active = .encoding)
    (ht : s.tstate = .data) (hread : bufRead s.mem.input s.cursor = some d) : step s = exec (txClass d) s := by
  obtain ⟨hlt, hl⟩ := drop_of_bufRead hread
  have hw := window_payload ha ht hlt
  rw [hl] at hw
  exact step_of_symbol hr hw (decode_tx _ _) (by simp [ha])

theorem step_stuffing {s : State} {d : Byte} (hr : s.resetReq = false) (ha : s.active = .stuffing)
    (hread : bufRead s.operand s.cursor = some d) : step s = exec (txClass d) s := by
  obtain ⟨hlt, hl⟩ := drop_of_bufRead hread
  have hw := window_stuffing ha hlt
  rw [hl] at hw
  exact step_of_symbol hr hw (decode_tx _ _) (by simp [ha])

/-- No pair is taken whole at a byte that is no marker or has no operand after it. -/
theorem pairFirst_single {b : Byte} {next : Option Byte} (h : b ≠ ESC ∨ next = none) (other : Instr) :
    pairFirst b next other = (other, 1) := by
  rcases h with h | rfl
  · exact pairFirst_other h next other
  · exact pairFirst_none b other

/-- The byte after those before an index is the one read there. -/
theorem head?_drop_eq_bufRead (l : List Byte) (i : Nat) : (l.drop i).head? = bufRead l i := List.head?_drop

theorem operandInBody_drop (l : List Byte) (i : Nat) (v : Byte) :
    operandInBody (l.drop i) = some v ↔ bufRead l i = some v ∧ v ≠ FLAG := by
  rw [operandInBody_eq_some, head?_drop_eq_bufRead]

/-- No byte, or a delimiter, is no operand (R63). -/
theorem operandInBody_drop_eq_none {l : List Byte} {i : Nat} (h : bufRead l i = none ∨ bufRead l i = some FLAG) :
    operandInBody (l.drop i) = none := by
  rw [Option.eq_none_iff_forall_ne_some]
  intro v hv
  obtain ⟨hread, hflag⟩ := (operandInBody_drop l i v).1 hv
  rcases h with h | h <;> simp [h, Ne.symm hflag] at hread

section
variable {s : State}

/-! ### The deframer's input -/

/-- The start delimiter, in either machine of DECODE. -/
theorem step_start (hr : s.resetReq = false) (ha : s.active = .decoding ∨ s.active = .stagedDecoding)
    (hd : s.dstate = .expectStart) (hread : bufRead s.mem.input s.cursor = some FLAG) : step s = exec .rxStart s := by
  have hw : s.window = some (.rxStart, s.mem.input.drop s.cursor) :=
    ha.elim (fun h => window_expectStart h hd) (fun h => window_staged_expectStart h hd)
  rw [(drop_of_bufRead hread).2] at hw
  exact step_of_symbol hr hw (decode_rxStart_flag _) (by rcases ha with ha | ha <;> simp [ha])

/-- A byte with an escape pending. -/
theorem step_deframer_escaped {v : Byte} (hr : s.resetReq = false) (ha : s.active = .decoding)
    (hd : s.dstate = .readingBody) (he : s.esc = true) (hread : bufRead s.mem.input s.cursor = some v) :
    step s = exec (rxEscapedClass v) s := by
  have hw := window_readingBody ha hd
  rw [(drop_of_bufRead hread).2, he] at hw
  exact step_of_symbol hr hw (decode_rxEscaped _ _) (by simp [ha])

/-- A byte with no escape pending that is not taken together with the one after it. -/
theorem step_deframer_single {b : Byte} (hr : s.resetReq = false) (ha : s.active = .decoding)
    (hd : s.dstate = .readingBody) (he : s.esc = false) (hread : bufRead s.mem.input s.cursor = some b)
    (hb : s.pairs = false ∨ b ≠ ESC ∨ operandInBody (s.mem.input.drop (s.cursor + 1)) = none) :
    step s = exec (rxBodyClass b) s := by
  have hw := window_readingBody ha hd
  rw [(drop_of_bufRead hread).2, he] at hw
  cases hp : s.pairs with
  | false =>
    rw [hp] at hw
    exact step_of_symbol hr hw (decode_rxBody _ _) (by simp [ha])
  | true =>
    rw [hp] at hw
    have hdec := decode_rxPairs b (s.mem.input.drop (s.cursor + 1))
    rw [pairFirst_single (hb.resolve_left (by simp [hp]))] at hdec
    exact step_of_symbol hr hw hdec (by simp [ha])

/-- A marker with its operand, where pairs are taken whole. -/
theorem step_deframer_pair {v : Byte} (hr : s.resetReq = false) (ha : s.active = .decoding)
    (hd : s.dstate = .readingBody) (he : s.esc = false) (hp : s.pairs = true)
    (hread : bufRead s.mem.input s.cursor = some ESC) (hnext : bufRead s.mem.input (s.cursor + 1) = some v)
    (hv : v ≠ FLAG) : step s = exec (pairClass v) s := by
  have hw := window_readingBody ha hd
  rw [(drop_of_bufRead hread).2, he, hp] at hw
  have hdec := decode_rxPairs ESC (s.mem.input.drop (s.cursor + 1))
  rw [(operandInBody_drop _ _ v).2 ⟨hnext, hv⟩, pairFirst_pair] at hdec
  exact step_of_symbol hr hw hdec (by simp [ha])

/-- The terminating delimiter, in either machine of DECODE, whether or not an escape is pending (R63, R122). -/
theorem step_stop (hr : s.resetReq = false) (ha : s.active = .decoding ∨ s.active = .stagedDecoding)
    (hd : s.dstate = .readingBody) (hread : bufRead s.mem.input s.cursor = some FLAG) : step s = exec .rxStop s := by
  rcases ha with ha | ha
  · cases he : s.esc with
    | true => exact step_deframer_escaped hr ha hd he hread
    | false => exact step_deframer_single hr ha hd he hread (.inr (.inl (by decide)))
  · exact step_of_symbol hr (window_staged_flag ha hd (drop_of_bufRead hread).2) (decode_rxBody _ _) (by simp [ha])

/-! ### The Unstuffer's own input -/

theorem step_unstuffer_operand {v : Byte} (hr : s.resetReq = false) (ha : s.active = .unstuffing)
    (he : s.esc = true) (hread : bufRead s.operand s.cursor = some v) : step s = exec (.rxOperand v) s := by
  obtain ⟨hlt, hl⟩ := drop_of_bufRead hread
  have hw := window_unstuffing ha hlt
  rw [hl, he] at hw
  exact step_of_symbol hr hw (decode_unstuffOperand _ _) (by simp [ha])

/-- A byte with no escape pending that is not taken together with the one after it. -/
theorem step_unstuffer_single {b : Byte} (hr : s.resetReq = false) (ha : s.active = .unstuffing)
    (he : s.esc = false) (hread : bufRead s.operand s.cursor = some b)
    (hb : s.pairs = false ∨ b ≠ ESC ∨ bufRead s.operand (s.cursor + 1) = none) : step s = exec (rxClass b) s := by
  obtain ⟨hlt, hl⟩ := drop_of_bufRead hread
  have hw := window_unstuffing ha hlt
  rw [hl, he] at hw
  cases hp : s.pairs with
  | false =>
    rw [hp] at hw
    exact step_of_symbol hr hw (decode_unstuff _ _) (by simp [ha])
  | true =>
    rw [hp] at hw
    have hdec := decode_unstuffPairs b (s.operand.drop (s.cursor + 1))
    rw [head?_drop_eq_bufRead, pairFirst_single (hb.resolve_left (by simp [hp]))] at hdec
    exact step_of_symbol hr hw hdec (by simp [ha])

/-- A marker with its operand, where pairs are taken whole: any byte is an operand (D23). -/
theorem step_unstuffer_pair {v : Byte} (hr : s.resetReq = false) (ha : s.active = .unstuffing)
    (he : s.esc = false) (hp : s.pairs = true) (hread : bufRead s.operand s.cursor = some ESC)
    (hnext : bufRead s.operand (s.cursor + 1) = some v) : step s = exec (pairClass v) s := by
  obtain ⟨hlt, hl⟩ := drop_of_bufRead hread
  have hw := window_unstuffing ha hlt
  rw [hl, he, hp] at hw
  have hdec := decode_unstuffPairs ESC (s.operand.drop (s.cursor + 1))
  rw [head?_drop_eq_bufRead, hnext, pairFirst_pair] at hdec
  exact step_of_symbol hr hw hdec (by simp [ha])

end

theorem rxBodyClass_of_ne {b : Byte} (hflag : b ≠ FLAG) (hesc : b ≠ ESC) : rxBodyClass b = .rxLiteral b := by
  simp [rxBodyClass, hflag, rxClass_of_ne hesc]

theorem rxEscapedClass_of_ne {v : Byte} (hflag : v ≠ FLAG) : rxEscapedClass v = .rxOperand v := by
  simp [rxEscapedClass, hflag]

/-- Settles O44: each clause is the step on the window that its state presents. -/
theorem stepTakesTheNextSymbol : Obligations.StepTakesTheNextSymbol := by
  intro s hr
  refine ⟨fun x q ha hp => step_of_request hr ha hp rfl, fun x q ha hp => step_of_request hr ha hp rfl,
    fun x q ha hp => step_of_unit hr ha hp, fun x q ha hp => step_of_unit hr ha hp,
    fun x q ha hp => step_of_unit hr ha hp, fun x q ha hp => step_of_frame hr ha hp,
    fun d ha ht hread => step_payload hr ha ht hread,
    fun ha ht => step_of_symbol hr (window_cksum ha ht) (decode_tx _ _) (by simp [ha]),
    fun d ha hread => step_stuffing hr ha hread,
    fun ha hread => ⟨fun hd => step_start hr ha hd hread, fun hd => step_stop hr ha hd hread⟩,
    fun ha hd he hread hopen => ?_, fun b ha hd he hread hflag hesc => ?_, fun v ha hd he hread hflag => ?_,
    fun v ha hd he hp hread hnext hflag => step_deframer_pair hr ha hd he hp hread hnext hflag,
    fun ha he hread => ⟨fun hopen => ?_, fun v hp hnext => step_unstuffer_pair hr ha he hp hread hnext⟩,
    fun b ha he hread hesc => ?_, fun v ha he hread => step_unstuffer_operand hr ha he hread⟩
  · exact step_deframer_single hr ha hd he hread (hopen.imp_right fun h => .inr (operandInBody_drop_eq_none h))
  · rw [step_deframer_single hr ha hd he hread (.inr (.inl hesc)), rxBodyClass_of_ne hflag hesc]
  · rw [step_deframer_escaped hr ha hd he hread, rxEscapedClass_of_ne hflag]
  · exact step_unstuffer_single hr ha he hread (hopen.imp_right .inr)
  · rw [step_unstuffer_single hr ha he hread (.inr (.inl hesc)), rxClass_of_ne hesc]

/-! ## A placed table word -/

/-- A table word is a request with no operand, a transmit byte, or two bytes (log entry 9). -/
theorem tableWindow_cases {nbits w : Nat} {c : Ctx} {bs : List Byte} (h : tableWindow nbits w = some (c, bs)) :
    (∃ op, c = .request ∧ bs = [selectorByte op]) ∨ (∃ d, c = .tx ∧ bs = [d]) ∨ ∃ b v, c = .pair ∧ bs = [b, v] := by
  unfold tableWindow at h
  split at h
  · split at h
    · cases h
      exact .inr (.inr ⟨_, _, rfl, rfl⟩)
    · cases h
  · split at h
    · split at h
      · next hw =>
        cases h
        have hw' : w = 0 ∨ w = 1 := by omega
        rcases hw' with rfl | rfl
        · exact .inl ⟨0#1, rfl, rfl⟩
        · exact .inl ⟨1#1, rfl, rfl⟩
      · split at h
        · cases h
          exact .inr (.inl ⟨_, rfl, rfl⟩)
        · cases h
    · cases h

theorem truncate_selectorByte (op : BitVec 1) : (selectorByte op).truncate 1 = op := by
  revert op
  decide

theorem window_placed_request (s : State) (op : BitVec 1) :
    (s.placeWindow .request [selectorByte op]).window = some (.request, [selectorByte op]) := by
  have hp : (s.placeWindow .request [selectorByte op]).pending = .request op [] :: s.pending := by
    simp [State.placeWindow, truncate_selectorByte]
  exact window_request rfl hp

theorem window_placed_tx (s : State) (d : Byte) : (s.placeWindow .tx [d]).window = some (.tx, [d]) :=
  window_payload (s := s.placeWindow .tx [d]) rfl rfl Nat.zero_lt_one

theorem window_placed_pair (s : State) (b v : Byte) :
    (s.placeWindow .pair [b, v]).window = some (.unstuffPairs, [b, v]) :=
  window_unstuffing (s := s.placeWindow .pair [b, v]) rfl Nat.zero_lt_two

/-- A marker with its operand is the same pair to the Unstuffer that takes pairs whole (R57). -/
theorem decode_unstuffPairs_of_pair {b v : Byte} {i : Instr} {rest : List Byte}
    (h : decode .pair [b, v] = .ok (i, rest)) : decode .unstuffPairs [b, v] = .ok (i, rest) := by
  by_cases hb : b = ESC
  · subst hb
    exact h
  · simp [decode, hb] at h

/-- The instruction of a placed window is what the next step runs. -/
theorem step_placeWindow {nbits w : Nat} {c : Ctx} {bs rest : List Byte} {i : Instr} (s : State)
    (h : tableWindow nbits w = some (c, bs)) (hd : decode c bs = .ok (i, rest)) :
    step (s.placeWindow c bs) = exec i (s.placeWindow c bs).consume := by
  rcases tableWindow_cases h with ⟨op, rfl, rfl⟩ | ⟨d, rfl, rfl⟩ | ⟨b, v, rfl, rfl⟩
  · exact step_of_instr (State.fetch_decoded rfl (window_placed_request s op) hd)
  · exact step_of_instr (State.fetch_decoded rfl (window_placed_tx s d) hd)
  · exact step_of_instr (State.fetch_decoded rfl (window_placed_pair s b v) (decode_unstuffPairs_of_pair hd))

/-- Settles O45: a word that decodes has a window, which `withFetchWord` places. -/
theorem placedWordRunsNext : Obligations.PlacedWordRunsNext := by
  intro s nbits w i h
  unfold decodeTableWord at h
  unfold State.withFetchWord
  cases hw : tableWindow nbits w with
  | none => simp [hw] at h
  | some window =>
    obtain ⟨c, bs⟩ := window
    cases hd : decode c bs with
    | error e => simp [hw, hd, decoded] at h
    | ok r =>
      obtain ⟨j, rest⟩ := r
      obtain rfl : j = i := by simpa [hw, hd, decoded] using h
      exact step_placeWindow s hw hd

end Sys2Proof.Machine
end

section
/-! PROOFS. The checksum (spec/40_checksum.md): the accumulator and the checksum byte by the byte sum mod 256 (R80, R82),
and the laws that follow from it (R83), with the wire flip that they do not exclude (R128). -/

namespace Sys2Proof.Machine

/-! ## The accumulator and the checksum byte as numbers -/

theorem toNat_not8 (b : Byte) : (not8 b).toNat = 255 - b.toNat := by
  have hnot : not8 b = ~~~b := BitVec.xor_allOnes
  rw [hnot, BitVec.toNat_not]

/-- Reduced mod 256 after every byte or once at the end (R82 (a)). -/
theorem toNat_absorbAll (acc : Byte) (x : List Byte) : (absorbAll acc x).toNat = (acc.toNat + byteSum x) % 256 := by
  induction x generalizing acc with
  | nil =>
    have hlt := acc.isLt
    simp only [absorbAll, byteSum]
    omega
  | cons b rest ih =>
    rw [absorbAll, ih, BitVec.toNat_add, byteSum, Nat.mod_add_mod, Nat.add_assoc]

theorem toNat_checksum (x : List Byte) : (checksum x).toNat = 255 - byteSum x % 256 := by
  rw [checksum, toNat_not8, toNat_absorbAll, BitVec.toNat_ofNat, Nat.zero_mod, Nat.zero_add]

theorem checksum_eq_ofNat (x : List Byte) : checksum x = BitVec.ofNat 8 (255 - byteSum x % 256) := by
  rw [← toNat_checksum, BitVec.ofNat_toNat, BitVec.setWidth_eq]

/-- The same byte by the formula that takes the sum first. -/
theorem checksum_eq_not8_sum (x : List Byte) : checksum x = not8 (BitVec.ofNat 8 (byteSum x % 256)) := by
  apply BitVec.eq_of_toNat_eq
  rw [toNat_checksum, toNat_not8, BitVec.toNat_ofNat, Nat.mod_mod]

/-- Settles O5: the machine hands over `checksum x`, and the class has no encoding. -/
theorem checksumIsComplementOfByteSum : Obligations.ChecksumIsComplementOfByteSum := by
  intro x s ha
  rw [← checksum_eq_ofNat]
  exact ⟨State.atomic_of_idle ha, rfl⟩

/-! ## The laws of the byte sum -/

theorem byteSum_eq_sum (x : List Byte) : byteSum x = (x.map BitVec.toNat).sum := by
  induction x with
  | nil => rfl
  | cons b rest ih => rw [byteSum, ih, List.map_cons, List.sum_cons]

theorem byteSum_append (x y : List Byte) : byteSum (x ++ y) = byteSum x + byteSum y := by
  simp only [byteSum_eq_sum, List.map_append, List.sum_append]

theorem byteSum_perm {x y : List Byte} (h : x.Perm y) : byteSum x = byteSum y := by
  rw [byteSum_eq_sum, byteSum_eq_sum]
  exact (h.map _).sum_eq

/-- Replacing one byte: the sum loses the old byte and gains the new one. -/
theorem byteSum_set {u : List Byte} {k : Nat} {b : Byte} (h : u[k]? = some b) (c : Byte) :
    byteSum (u.set k c) + b.toNat = byteSum u + c.toNat := by
  induction u generalizing k with
  | nil => cases h
  | cons a rest ih =>
    cases k with
    | zero =>
      cases h
      simp only [List.set_cons_zero, byteSum]
      omega
    | succ k =>
      have hrest := ih h
      simp only [List.set_cons_succ, byteSum]
      omega

/-- Two bytes differ by less than 256, so replacing one by another changes the residue. -/
theorem byteSum_set_mod_ne {u : List Byte} {k : Nat} {b c : Byte} (h : u[k]? = some b) (hc : c ≠ b) :
    byteSum (u.set k c) % 256 ≠ byteSum u % 256 := by
  intro heq
  have hset := byteSum_set h c
  have hb := b.isLt
  have hlt := c.isLt
  exact hc (BitVec.eq_of_toNat_eq (by omega))

theorem flipBit_ne (b : Byte) {j : Nat} (hj : j < 8) : b ^^^ (1#8 <<< j) ≠ b := by
  have hmask : ∀ i < 8, 1#8 <<< i ≠ 0#8 := by decide
  exact fun h => hmask j hj (xor_left_eq_self_iff.mp h)

/-! ## The laws of CHECKSUM -/

/-- The verification identity: the payload and its checksum byte sum to 255 mod 256. -/
theorem checksum_eq_iff (p : List Byte) (c : Byte) : checksum p = c ↔ (byteSum p + c.toNat) % 256 = 255 := by
  have hc := c.isLt
  rw [← BitVec.toNat_inj, toNat_checksum]
  omega

theorem checksum_append (x y : List Byte) :
    checksum (x ++ y) = not8 (BitVec.ofNat 8 ((byteSum x + byteSum y) % 256)) := by
  rw [checksum_eq_not8_sum, byteSum_append]

theorem checksum_perm {x y : List Byte} (h : x.Perm y) : checksum x = checksum y := by
  rw [checksum_eq_not8_sum, checksum_eq_not8_sum, byteSum_perm h]

/-- R128 (b): the frame of the payload `FF 7F`, its byte `7F` intact or turned into a `FLAG` by one flipped bit. The
`FLAG` ends the frame after `FF`, which is the checksum of the empty payload. -/
theorem decodeFrame_wireFlip {m : Nat} (hm : 1 ≤ m) :
    decodeFrame m [0x7E#8, 0xFF#8, 0x7F#8, 0x81#8, 0x7E#8] = .ok [0xFF#8, 0x7F#8] ∧
    decodeFrame m [0x7E#8, 0xFF#8, 0x7F#8 ^^^ 0x01#8, 0x81#8, 0x7E#8] = .ok [] := by
  have hfits : 5 ≤ fmax m := by
    unfold fmax
    omega
  exact ⟨decodeFrame_terminated (body := [0xFF#8, 0x7F#8, 0x81#8]) (after := []) hfits (by decide),
    decodeFrame_terminated (body := [0xFF#8]) (after := [0x81#8, 0x7E#8]) hfits (by decide)⟩

/-- Settles O6: the laws of the checksum byte, and DECODE of the wire example. -/
theorem checksumLaws : Obligations.ChecksumLaws := by
  refine ⟨checksum_eq_iff, checksum_append, fun x y => checksum_perm, fun u k b j hu hk hj => ?_, rfl, rfl,
    fun s ha hm => ?_⟩
  · rw [← hu]
    exact byteSum_set_mod_ne hk (flipBit_ne b hj)
  · obtain ⟨hintact, hflipped⟩ := decodeFrame_wireFlip hm
    exact ⟨by rw [exec_decode_of_idle ha, hintact], by rw [exec_decode_of_idle ha, hflipped]⟩

end Sys2Proof.Machine
end

section
/-! PROOFS. The Stuffer and the Unstuffer as functions on byte sequences (spec/41_stuffing.md): what STUFF emits and how
long it is (R90 to R93), and UNSTUFF by the front of its input, at a cut, on a run of markers and by its length (R95 to
R99). -/

namespace Sys2Proof.Machine

/-! ## STUFF as a byte-wise map -/

theorem exec_stuff_of_idle {s : State} (h : s.active = .idle) (x : List Byte) :
    exec (.stuff x) s = .next (s.handOver (.bytes (stuff x))) := State.atomic_of_idle h

theorem stuff_eq_flatMap (x : List Byte) : stuff x = x.flatMap emit := by
  induction x with
  | nil => rfl
  | cons d rest ih => rw [stuff, ih, List.flatMap_cons]

/-- The Stuffer's two rows as R90 writes them. -/
theorem emit_eq_ite : emit = fun d =>
    if d = 0x7E#8 ∨ d = 0x7D#8 ∨ d = 0x11#8 ∨ d = 0x13#8 then [0x7D#8, d ^^^ 0x20#8] else [d] := by
  funext d
  simp only [emit, isReserved_iff]

/-- Settles O7: STUFF maps each byte to what the Stuffer emits for it. -/
theorem stuffReplacesReservedBytes : Obligations.StuffReplacesReservedBytes := by
  intro x s ha
  rw [exec_stuff_of_idle ha, stuff_eq_flatMap, emit_eq_ite]

theorem reservedCount_eq_countP (x : List Byte) : reservedCount x = x.countP isReserved := by
  induction x with
  | nil => rfl
  | cons d rest ih => rw [reservedCount, ih, List.countP_cons, Nat.add_comm]

/-- Settles O8: each bound is reached where no byte, or every byte, is counted as reserved. -/
theorem stuffLengthAndConcatenation : Obligations.StuffLengthAndConcatenation := by
  refine ⟨fun x => ⟨stuff_length x, reservedCount_le x, ?_, ?_⟩, stuff_append, stuff_singleton⟩
  · simp [reservedCount_eq_countP, List.countP_eq_zero]
  · rw [reservedCount_eq_countP, List.countP_eq_length]

/-! ## The alphabet of STUFF's output -/

theorem isCanonicalOperand_of_reserved {d : Byte} (h : isReserved d = true) :
    isCanonicalOperand (d ^^^ MASK) = true := by
  rcases isReserved_iff.1 h with rfl | rfl | rfl | rfl <;> rfl

theorem not_reserved_of_isCanonicalOperand {v : Byte} (h : isCanonicalOperand v = true) : isReserved v = false := by
  rcases isCanonicalOperand_iff.1 h with rfl | rfl | rfl | rfl <;> rfl

/-- The marker is the one reserved byte that the Stuffer emits. -/
theorem eq_marker_of_reserved_mem_emit {b d : Byte} (hb : isReserved b = true) (hmem : b ∈ emit d) : b = ESC := by
  cases hd : isReserved d with
  | true =>
    have hoperand := not_reserved_of_isCanonicalOperand (isCanonicalOperand_of_reserved hd)
    rw [emit_of_reserved hd, List.mem_pair] at hmem
    exact hmem.resolve_right fun heq => by simp [heq, hoperand] at hb
  | false =>
    rw [emit_of_not_reserved hd, List.mem_singleton] at hmem
    simp [hmem, hd] at hb

theorem reserved_not_mem_stuff {b : Byte} (hb : isReserved b = true) (hne : b ≠ ESC) (x : List Byte) :
    b ∉ stuff x := by
  rw [stuff_eq_flatMap, List.mem_flatMap]
  rintro ⟨d, -, hmem⟩
  exact hne (eq_marker_of_reserved_mem_emit hb hmem)

theorem ne_marker_of_not_reserved {d : Byte} (h : isReserved d = false) : d ≠ ESC := by
  rintro rfl
  cases h

/-- A marker in STUFF's output is the head of a pair that the Stuffer emitted, since no literal and no operand is one
(R93 (b)). -/
theorem stuff_marker_followed {x : List Byte} {k : Nat} (h : (stuff x)[k]? = some ESC) :
    ∃ v, (stuff x)[k + 1]? = some v ∧ isCanonicalOperand v = true := by
  induction x generalizing k with
  | nil => cases h
  | cons d rest ih =>
    cases hd : isReserved d with
    | true =>
      have hcanonical := isCanonicalOperand_of_reserved hd
      have hstuff : stuff (d :: rest) = ESC :: (d ^^^ MASK) :: stuff rest := by simp [stuff, emit_of_reserved hd]
      rw [hstuff] at h ⊢
      match k with
      | 0 => exact ⟨_, rfl, hcanonical⟩
      | 1 =>
        have hoperand := ne_marker_of_not_reserved (not_reserved_of_isCanonicalOperand hcanonical)
        exact absurd (Option.some.inj h) hoperand
      | k + 2 => exact ih h
    | false =>
      have hstuff : stuff (d :: rest) = d :: stuff rest := by simp [stuff, emit_of_not_reserved hd]
      rw [hstuff] at h ⊢
      match k with
      | 0 => exact absurd (Option.some.inj h) (ne_marker_of_not_reserved hd)
      | k + 1 => exact ih h

/-- Settles O9: the parse of what STUFF made of a prefix gives the prefix, with no escape pending at its end. -/
theorem stuffedAlphabet : Obligations.StuffedAlphabet := fun x =>
  ⟨flag_not_mem_stuff x, reserved_not_mem_stuff rfl (by decide) x, reserved_not_mem_stuff rfl (by decide) x,
    fun _ => stuff_marker_followed, fun y z hx => ⟨hx ▸ stuff_append y z, takeAll_stuff y⟩⟩

/-! ## UNSTUFF undoes STUFF -/

theorem exec_unstuff_of_idle {s : State} (h : s.active = .idle) (x : List Byte) :
    exec (.unstuff x) s = .next (s.handOver (unstuff x).toUnit) := State.atomic_of_idle h

theorem stuff_injective : Function.Injective stuff := fun x y h =>
  Result.ok.inj (by rw [← unstuff_stuff x, ← unstuff_stuff y, h])

/-- Settles O10: UNSTUFF is a left inverse of STUFF; an operand that STUFF never emits shows that it is no right
inverse. -/
theorem unstuffInvertsStuff : Obligations.UnstuffInvertsStuff := by
  refine ⟨fun x s ha => ?_, fun x y h => stuff_injective h, rfl, rfl⟩
  rw [exec_unstuff_of_idle ha, unstuff_stuff]
  rfl

/-! ## UNSTUFF by the front of its input and at a cut -/

/-- The one error of UNSTUFF is an escape pending at the end (R95). -/
theorem unstuff_eq_error {x : List Byte} {k : ErrorKind} :
    unstuff x = .error k ↔ (takeAll false x).1 = true ∧ k = .truncatedEscape := by
  cases h : (takeAll false x).1 <;> simp [unstuff, unstuffFinish, h, eq_comm]

/-- The error of the part after a cut with no escape pending is the error of the whole (R99). -/
theorem unstuff_append_of_error {x y u : List Byte} (hx : unstuff x = .ok u)
    (hy : unstuff y = .error .truncatedEscape) : unstuff (x ++ y) = .error .truncatedEscape := by
  obtain ⟨hopen, -⟩ := unstuff_eq_error.1 hy
  apply unstuff_of_open
  rw [takeAll_append, unstuff_eq_ok.1 hx]
  exact hopen

theorem unstuff_literal {a : Byte} (h : a ≠ ESC) : unstuff [a] = .ok [a] := by
  rw [unstuff_eq_ok, takeAll_singleton, take_literal h]

/-- Settles O11: a pair or a literal at the front is a cut with no escape pending after it. -/
theorem unstuffByFrontCases : Obligations.UnstuffByFrontCases := by
  refine ⟨fun x s ha => ⟨fun u hu => ?_, fun k hk => ?_⟩, rfl, rfl,
    fun v _ _ hrest => unstuff_append_of_ok (unstuff_pair v) hrest,
    fun v _ hrest => unstuff_append_of_error (unstuff_pair v) hrest,
    fun _ _ _ ha hrest => unstuff_append_of_ok (unstuff_literal ha) hrest,
    fun _ _ ha hrest => unstuff_append_of_error (unstuff_literal ha) hrest⟩
  · rw [exec_unstuff_of_idle ha, hu]
    rfl
  · obtain ⟨-, rfl⟩ := unstuff_eq_error.1 hk
    rw [exec_unstuff_of_idle ha, hk]
    exact ⟨rfl, rfl⟩

/-- Settles O14: the concatenation at a cut with no escape pending, and a cut between a marker and its operand. -/
theorem unstuffAtCuts : Obligations.UnstuffAtCuts :=
  ⟨fun _ _ _ hx => ⟨fun _ => unstuff_append_of_ok hx, unstuff_append_of_error hx⟩, rfl, rfl⟩

/-! ## UNSTUFF by the markers at the end -/

/-- Settles O12: an escape is pending at the end exactly after an odd run of markers. -/
theorem unstuffFailsOnOddEscapeRun : Obligations.UnstuffFailsOnOddEscapeRun := by
  intro x
  refine ⟨by simp [unstuff_eq_error, takeAll_open_iff], fun heven => ⟨(takeAll false x).2, ?_⟩⟩
  have hclosed : (takeAll false x).1 = false := by
    rw [← Bool.not_eq_true, takeAll_open_iff]
    omega
  exact unstuff_of_takeAll (Prod.ext hclosed rfl)

/-! ## The length of UNSTUFF -/

/-- The bytes taken are the bytes emitted and one marker for each pair formed; a marker pending at the start or at the
end belongs to a pair that lies on both sides of it. -/
theorem takeAll_length_add_pairCount (e : Bool) (x : List Byte) :
    (takeAll e x).2.length + pairCount e x + (takeAll e x).1.toNat = x.length + e.toNat := by
  induction x generalizing e with
  | nil => simp [takeAll, pairCount]
  | cons b rest ih =>
    have hrest := ih (take e b).1
    simp only [takeAll, pairCount, List.length_append, List.length_cons]
    cases e with
    | true =>
      simp only [take_operand, List.length_singleton, Bool.toNat_false, Bool.toNat_true, if_true] at hrest ⊢
      omega
    | false =>
      by_cases hb : b = ESC
      · simp only [hb, take_marker, List.length_nil, Bool.toNat_false, Bool.toNat_true, Bool.false_eq_true,
          if_false] at hrest ⊢
        omega
      · simp only [take_literal hb, List.length_singleton, Bool.toNat_false, Bool.false_eq_true, if_false] at hrest ⊢
        omega

/-- Every pair emits one byte. -/
theorem pairCount_le_takeAll_length (e : Bool) (x : List Byte) : pairCount e x ≤ (takeAll e x).2.length := by
  induction x generalizing e with
  | nil => exact Nat.le_refl 0
  | cons b rest ih =>
    have hrest := ih (take e b).1
    have hemitted : (if e = true then 1 else 0) ≤ (take e b).2.length := by cases e <;> simp [take]
    rw [pairCount, takeAll, List.length_append]
    omega

/-- Settles O13: the bounds are those of the number of pairs, none and one for each byte emitted. -/
theorem unstuffLength : Obligations.UnstuffLength := by
  intro x u hu
  have hlen := takeAll_length_add_pairCount false x
  have hpairs := pairCount_le_takeAll_length false x
  rw [unstuff_eq_ok.1 hu] at hlen hpairs
  simp only [Bool.toNat_false, Nat.add_zero] at hlen hpairs
  exact ⟨hlen, by omega, by omega⟩

end Sys2Proof.Machine
end

section
/-! PROOFS. The encoder (spec/42_encoder.md): ENCODE on an idle instance (R110), and the frames it gives as byte
sequences, read off the alphabet of STUFF and the frame's length (R52, R93, R111). -/

namespace Sys2Proof.Machine

/-! ## ENCODE by the length of the payload -/

theorem exec_encode_of_idle {s : State} (h : s.active = .idle) (p : List Byte) :
    exec (.encode p) s = .next (s.deliver (encodeFrame s.pmax p)) := State.atomic_of_idle h

/-- Settles O18: the length of the payload alone decides between the frame and the error. -/
theorem encodeGivesFrameOrCapacityExceeded : Obligations.EncodeGivesFrameOrCapacityExceeded := by
  intro p s ha
  refine ⟨fun hfits => ?_, fun hfull => ?_⟩
  · rw [exec_encode_of_idle ha, encodeFrame_of_fits hfits, frameOf_eq]
    rfl
  · rw [exec_encode_of_idle ha, encodeFrame_of_full hfull]

theorem encodeFrame_eq_ok {m : Nat} {p f : List Byte} :
    encodeFrame m p = .ok f ↔ p.length ≤ m ∧ f = frameOf p := by
  rcases Nat.lt_or_ge m p.length with hfull | hfits
  · simp [encodeFrame_of_full hfull, hfull]
  · simp [encodeFrame_of_fits hfits, hfits, eq_comm]

/-! ## The bytes of a frame -/

theorem frameOf_getElem?_zero (p : List Byte) : (frameOf p)[0]? = some FLAG := rfl

theorem frameOf_getElem?_last (p : List Byte) : (frameOf p)[(frameOf p).length - 1]? = some FLAG := by
  rw [← List.getLast?_eq_getElem?, frameOf_eq, List.getLast?_concat]

/-- Between the delimiters a frame is the stuffed body, one place further on (R50). -/
theorem frameOf_getElem?_succ {p : List Byte} {j : Nat} (hj : j < (stuff (p ++ [checksum p])).length) :
    (frameOf p)[j + 1]? = (stuff (p ++ [checksum p]))[j]? := by
  rw [frameOf_eq, List.cons_append, List.getElem?_cons_succ, List.getElem?_append_left hj]

theorem frameOf_length_eq_stuff (p : List Byte) :
    (frameOf p).length = (stuff (p ++ [checksum p])).length + 2 := by
  simp [frameOf_eq]

/-- No byte of the stuffed body is a delimiter (R111 (b)). -/
theorem frameOf_interior_ne_flag {p : List Byte} {k : Nat} (hpos : 0 < k) (hk : k < (frameOf p).length - 1) :
    (frameOf p)[k]? ≠ some FLAG := by
  obtain ⟨j, rfl⟩ := Nat.exists_eq_add_one.2 hpos
  rw [frameOf_length_eq_stuff] at hk
  rw [frameOf_getElem?_succ (by omega)]
  exact fun hflag => flag_not_mem_stuff _ (List.mem_of_getElem? hflag)

/-- The delimiters and the markers are the only reserved bytes in a frame (R111 (b)). -/
theorem reserved_not_mem_frameOf {b : Byte} (hb : isReserved b = true) (hflag : b ≠ FLAG) (hesc : b ≠ ESC)
    (p : List Byte) : b ∉ frameOf p := by
  simp [frameOf_eq, hflag, reserved_not_mem_stuff hb hesc]

/-- A byte other than `FLAG` stands in the stuffed body. -/
theorem frameOf_getElem?_ne_flag {p : List Byte} {k : Nat} {b : Byte} (h : (frameOf p)[k]? = some b)
    (hb : b ≠ FLAG) : ∃ j, k = j + 1 ∧ (stuff (p ++ [checksum p]))[j]? = some b := by
  cases k with
  | zero => exact absurd (Option.some.inj h).symm hb
  | succ j =>
    refine ⟨j, rfl, ?_⟩
    rw [frameOf_eq, List.cons_append, List.getElem?_cons_succ, List.getElem?_append] at h
    split at h
    · exact h
    · exact absurd (List.mem_singleton.1 (List.mem_of_getElem? h)) hb

/-- The operand of a marker stands in the stuffed body too, before the terminating delimiter (R93 (b), R111 (b)). -/
theorem frameOf_marker_followed {p : List Byte} {k : Nat} (h : (frameOf p)[k]? = some ESC) :
    ∃ v, (frameOf p)[k + 1]? = some v ∧ isCanonicalOperand v = true := by
  obtain ⟨j, rfl, hmarker⟩ := frameOf_getElem?_ne_flag h (by decide)
  obtain ⟨v, hv, hcanonical⟩ := stuff_marker_followed hmarker
  obtain ⟨hlt, -⟩ := List.getElem?_eq_some_iff.1 hv
  exact ⟨v, by rw [frameOf_getElem?_succ hlt, hv], hcanonical⟩

/-- STUFF is injective, and the checksum is the one byte after the payload (R111 (e)). -/
theorem frameOf_injective : Function.Injective frameOf := by
  intro p q h
  rw [frameOf_eq, frameOf_eq] at h
  have hbody := stuff_injective (List.append_cancel_right (List.cons.inj h).2)
  exact (List.append_inj' hbody rfl).1

/-- Settles O19: an instance that accepts a payload gives its frame, whatever its `PMAX`, and the stuffed body between
the delimiters has STUFF's alphabet. -/
theorem encodedFramesAreDelimiterSafe : Obligations.EncodedFramesAreDelimiterSafe := by
  refine ⟨fun m p f hf => ?_, fun m n p q f hp hq => ?_, fun m n p f g hf hg => ?_⟩
  · obtain ⟨hfits, rfl⟩ := encodeFrame_eq_ok.1 hf
    obtain ⟨-, hleast, hmost, hfmax⟩ := frameLengthLaw.1 p
    exact ⟨frameOf_getElem?_zero p, frameOf_getElem?_last p, fun _ => frameOf_interior_ne_flag,
      reserved_not_mem_frameOf rfl (by decide) (by decide) p, reserved_not_mem_frameOf rfl (by decide) (by decide) p,
      fun _ => frameOf_marker_followed, hleast, hmost, hfmax m hfits⟩
  · obtain ⟨-, rfl⟩ := encodeFrame_eq_ok.1 hp
    exact frameOf_injective (encodeFrame_eq_ok.1 hq).2
  · rw [(encodeFrame_eq_ok.1 hf).2, (encodeFrame_eq_ok.1 hg).2]

end Sys2Proof.Machine
end

section
/-! PROOFS. The decoder (spec/43_decoder.md): DECODE by the place of the delimiters and by the body between them, the
exact cause of each of its results and the round trip with ENCODE (R120 to R129); and the byte-serial machines of
DECODE: their request rows, their missing delimiters, and what a received byte does and leaves unchanged (R121, R155,
R156). -/

namespace Sys2Proof.Machine

/-! ## DECODE of a frame -/

/-- DECODE holds the frame to `FMAX`, not the payload to `PMAX` (R129). -/
theorem decodeFrame_frameOf {m : Nat} {p : List Byte} (h : (frameOf p).length ≤ fmax m) :
    decodeFrame m (frameOf p) = .ok p := by
  rw [frameOf_eq] at h ⊢
  rw [decodeFrame_terminated h (flag_not_mem_stuff _), decodeBody_stuff]

/-- Settles O20: a payload within `PMAX` has a frame within `FMAX`, whose body UNSTUFF gives back. -/
theorem decodeOfEncodeReturnsThePayload : Obligations.DecodeOfEncodeReturnsThePayload := by
  intro p s u hs hu hpmax hfits
  obtain ⟨-, -, -, hframe⟩ := frameLengthLaw.1 p
  refine ⟨frameOf p, ?_, ?_⟩
  · rw [exec_encode_of_idle hs, encodeFrame_of_fits hfits]
  · rw [exec_decode_of_idle hu, decodeFrame_frameOf (hframe u.pmax (hpmax ▸ hfits))]

/-- Settles O23: DECODE of either input is DECODE of the body. -/
theorem trailingBytesAreIgnored : Obligations.TrailingBytesAreIgnored := by
  intro body rest s ha hflag hfits
  have hlong : (FLAG :: body ++ FLAG :: rest).length ≤ fmax s.pmax := by
    simp only [List.length_append, List.length_cons]
    omega
  have hshort : (FLAG :: body ++ [FLAG]).length ≤ fmax s.pmax := by
    simp only [List.length_append, List.length_cons, List.length_nil]
    omega
  rw [exec_decode_of_idle ha, exec_decode_of_idle ha, decodeFrame_terminated hlong hflag,
    decodeFrame_terminated hshort hflag]
  exact ⟨rfl, _, rfl⟩

/-! ## The delimiters by their index -/

/-- The first `FLAG` after the start delimiter, or after any first byte, stands right after the body (R122). -/
theorem isTerminator_length_succ {body : List Byte} (h : FLAG ∉ body) (b : Byte) (after : List Byte) :
    isTerminator (b :: body ++ FLAG :: after) (body.length + 1) := by
  refine ⟨Nat.succ_pos _, by simp, fun k hpos hk => ?_⟩
  obtain ⟨i, rfl⟩ := Nat.exists_eq_add_one.2 hpos
  rw [List.cons_append, List.getElem?_cons_succ, List.getElem?_append_left (by omega)]
  exact fun hi => h (List.mem_of_getElem? hi)

theorem bodyAt_length_succ (b : Byte) (body after : List Byte) :
    bodyAt (b :: body ++ FLAG :: after) (body.length + 1) = body := by
  simp [bodyAt]

/-- The terminating delimiter is the first one. -/
theorem isTerminator_unique {inp : List Byte} {i j : Nat} (hi : isTerminator inp i) (hj : isTerminator inp j) :
    i = j := by
  obtain ⟨hi1, hiflag, hifirst⟩ := hi
  obtain ⟨hj1, hjflag, hjfirst⟩ := hj
  rcases Nat.lt_trichotomy i j with h | h | h
  · exact absurd hiflag (hjfirst i hi1 h)
  · exact h
  · exact absurd hjflag (hifirst j hj1 h)

/-- What is said of the body up to the terminating delimiter is said of the bytes before the first `FLAG`. -/
theorem exists_isTerminator_iff {body : List Byte} (h : FLAG ∉ body) (b : Byte) (after : List Byte)
    (P : List Byte → Prop) :
    (∃ j, isTerminator (b :: body ++ FLAG :: after) j ∧ P (bodyAt (b :: body ++ FLAG :: after) j)) ↔ P body := by
  have hterm := isTerminator_length_succ h b after
  constructor
  · rintro ⟨j, hj, hP⟩
    rwa [isTerminator_unique hj hterm, bodyAt_length_succ] at hP
  · intro hP
    exact ⟨_, hterm, by rwa [bodyAt_length_succ]⟩

/-- A `FLAG` at an index of 1 or more stands after the first byte. -/
theorem flag_mem_iff (b : Byte) (body : List Byte) : FLAG ∈ body ↔ ∃ j, 1 ≤ j ∧ (b :: body)[j]? = some FLAG := by
  rw [List.mem_iff_getElem?]
  constructor
  · rintro ⟨i, hi⟩
    exact ⟨i + 1, Nat.succ_pos i, hi⟩
  · rintro ⟨j, hpos, hj⟩
    obtain ⟨i, rfl⟩ := Nat.exists_eq_add_one.2 hpos
    exact ⟨i, hj⟩

theorem flag_mem_of_isTerminator {b : Byte} {body : List Byte} {j : Nat} (h : isTerminator (b :: body) j) :
    FLAG ∈ body := (flag_mem_iff b body).2 ⟨j, h.1, h.2.1⟩

/-! ## DECODE by its steps -/

/-- Steps 1 and 2 of DECODE: the capacity, the start delimiter and the terminating one are looked at in this order, and
the rest is DECODE of the body (R120). -/
theorem decodeFrame_cases (m : Nat) (inp : List Byte) :
    (fmax m < inp.length ∧ decodeFrame m inp = .error .capacityExceeded) ∨
    (inp.length ≤ fmax m ∧
      ((inp[0]? ≠ some FLAG ∧ decodeFrame m inp = .error .missingStartDelimiter) ∨
      (∃ body, inp = FLAG :: body ∧ FLAG ∉ body ∧ decodeFrame m inp = .error .unterminatedFrame) ∨
      ∃ body after, inp = FLAG :: body ++ FLAG :: after ∧ FLAG ∉ body ∧ decodeFrame m inp = decodeBody body)) := by
  rcases Nat.lt_or_ge (fmax m) inp.length with hfull | hfits
  · exact .inl ⟨hfull, decodeFrame_of_full hfull⟩
  refine .inr ⟨hfits, ?_⟩
  by_cases hstart : inp[0]? = some FLAG
  · obtain ⟨body, rfl⟩ := List.head?_eq_some_iff.1 (List.head?_eq_getElem?.trans hstart)
    by_cases hflag : FLAG ∈ body
    · obtain ⟨pre, after, rfl, hpre⟩ := List.eq_append_cons_of_mem hflag
      exact .inr (.inr ⟨pre, after, rfl, hpre, decodeFrame_terminated hfits hpre⟩)
    · exact .inr (.inl ⟨body, rfl, hflag, decodeFrame_unterminated hfits hflag⟩)
  · exact .inl ⟨hstart, decodeFrame_noStart hfits (by rwa [List.head?_eq_getElem?])⟩

/-- Steps 3 to 6 of DECODE: UNSTUFF of the body, then the checks on the unstuffed body (R120). -/
theorem decodeBody_cases (body : List Byte) :
    (unstuff body = .error .truncatedEscape ∧ decodeBody body = .error .truncatedEscape) ∨
    (unstuff body = .ok [] ∧ decodeBody body = .error .emptyBody) ∨
    (∃ p a, unstuff body = .ok (p ++ [a]) ∧ checksum p ≠ a ∧
      decodeBody body = .error (.checksumMismatch (checksum p) a)) ∨
    ∃ p, unstuff body = .ok (p ++ [checksum p]) ∧ decodeBody body = .ok p := by
  cases hu : unstuff body with
  | error k =>
    obtain ⟨-, rfl⟩ := unstuff_eq_error.1 hu
    exact .inl ⟨rfl, decodeBody_of_open hu⟩
  | ok u =>
    rcases List.eq_nil_or_concat' u with rfl | ⟨p, a, rfl⟩
    · exact .inr (.inl ⟨rfl, decodeBody_of_ok hu⟩)
    by_cases hc : checksum p = a
    · subst hc
      exact .inr (.inr (.inr ⟨p, rfl, by rw [decodeBody_of_ok hu, verdict_match]⟩))
    · exact .inr (.inr (.inl ⟨p, a, rfl, hc, by rw [decodeBody_of_ok hu, verdict_mismatch hc]⟩))

/-- None of the three errors of the highest priority, which are about the capacity and the delimiters (R172). -/
def Result.AboutBody (r : Result) : Prop :=
  r ≠ .error .capacityExceeded ∧ r ≠ .error .missingStartDelimiter ∧ r ≠ .error .unterminatedFrame

theorem decodeBody_aboutBody (body : List Byte) : (decodeBody body).AboutBody := by
  rcases decodeBody_cases body with ⟨-, h⟩ | ⟨-, h⟩ | ⟨p, a, -, -, h⟩ | ⟨p, -, h⟩ <;> rw [h] <;>
    exact ⟨nofun, nofun, nofun⟩

/-! ## The cause of each result -/

theorem exec_decode_eq_iff {s : State} (ha : s.active = .idle) {inp : List Byte} {r : Result} :
    exec (.decode inp) s = .next (s.deliver r) ↔ decodeFrame s.pmax inp = r := by
  rw [exec_decode_of_idle ha]
  refine ⟨fun h => ?_, fun h => by rw [h]⟩
  injection h with h
  exact Option.some.inj (congrArg State.outcome h)

section
variable {m : Nat} {inp : List Byte}

/-- A result that is about the body is DECODE's exactly if the capacity and both delimiters are in order and it is
DECODE's of the body. -/
theorem decodeFrame_eq_iff_body {r : Result} (hr : r.AboutBody) :
    decodeFrame m inp = r ↔
      inp.length ≤ fmax m ∧ inp[0]? = some FLAG ∧ ∃ j, isTerminator inp j ∧ decodeBody (bodyAt inp j) = r := by
  obtain ⟨hcapacity, hmissing, hunterminated⟩ := hr
  rcases decodeFrame_cases m inp with ⟨hfull, h⟩ | ⟨hfits, ⟨hstart, h⟩ | ⟨body, rfl, hflag, h⟩ |
    ⟨body, after, rfl, hflag, h⟩⟩
  · exact ⟨fun hd => absurd (hd.symm.trans h) hcapacity, fun ⟨hfits, _⟩ => absurd hfits (Nat.not_le.2 hfull)⟩
  · exact ⟨fun hd => absurd (hd.symm.trans h) hmissing, fun ⟨_, hflag, _⟩ => absurd hflag hstart⟩
  · exact ⟨fun hd => absurd (hd.symm.trans h) hunterminated,
      fun ⟨_, _, j, hj, _⟩ => absurd (flag_mem_of_isTerminator hj) hflag⟩
  · rw [h, exists_isTerminator_iff hflag FLAG after (fun x => decodeBody x = r)]
    exact ⟨fun hd => ⟨hfits, rfl, hd⟩, fun ⟨_, _, hd⟩ => hd⟩

theorem decodeFrame_eq_capacityExceeded :
    decodeFrame m inp = .error .capacityExceeded ↔ fmax m < inp.length := by
  refine ⟨fun hd => ?_, decodeFrame_of_full⟩
  rcases decodeFrame_cases m inp with ⟨hfull, -⟩ | ⟨-, ⟨-, h⟩ | ⟨-, -, -, h⟩ | ⟨body, -, -, -, h⟩⟩
  · exact hfull
  · cases h.symm.trans hd
  · cases h.symm.trans hd
  · exact absurd (h.symm.trans hd) (decodeBody_aboutBody body).1

theorem decodeFrame_eq_missingStartDelimiter :
    decodeFrame m inp = .error .missingStartDelimiter ↔ inp.length ≤ fmax m ∧ inp[0]? ≠ some FLAG := by
  refine ⟨fun hd => ?_, fun ⟨hfits, hstart⟩ => decodeFrame_noStart hfits (by rwa [List.head?_eq_getElem?])⟩
  rcases decodeFrame_cases m inp with ⟨-, h⟩ | ⟨hfits, ⟨hstart, -⟩ | ⟨-, -, -, h⟩ | ⟨body, -, -, -, h⟩⟩
  · cases h.symm.trans hd
  · exact ⟨hfits, hstart⟩
  · cases h.symm.trans hd
  · exact absurd (h.symm.trans hd) (decodeBody_aboutBody body).2.1

theorem decodeFrame_eq_unterminatedFrame :
    decodeFrame m inp = .error .unterminatedFrame ↔
      inp.length ≤ fmax m ∧ inp[0]? = some FLAG ∧ ∀ j, 1 ≤ j → inp[j]? ≠ some FLAG := by
  constructor
  · intro hd
    rcases decodeFrame_cases m inp with ⟨-, h⟩ | ⟨hfits, ⟨-, h⟩ | ⟨body, rfl, hflag, -⟩ | ⟨body, -, -, -, h⟩⟩
    · cases h.symm.trans hd
    · cases h.symm.trans hd
    · exact ⟨hfits, rfl, fun j hpos hj => hflag ((flag_mem_iff FLAG body).2 ⟨j, hpos, hj⟩)⟩
    · exact absurd (h.symm.trans hd) (decodeBody_aboutBody body).2.2
  · rintro ⟨hfits, hstart, hnone⟩
    obtain ⟨body, rfl⟩ := List.head?_eq_some_iff.1 (List.head?_eq_getElem?.trans hstart)
    refine decodeFrame_unterminated hfits fun hflag => ?_
    obtain ⟨j, hpos, hj⟩ := (flag_mem_iff FLAG body).1 hflag
    exact hnone j hpos hj

end

/-! ## DECODE of the body -/

section
variable {body p : List Byte}

/-- The checksum byte after the payload brings the sum to 255 mod 256 (R123). -/
theorem eq_append_checksum_iff {u : List Byte} :
    u = p ++ [checksum p] ↔ 1 ≤ u.length ∧ byteSum u % 256 = 255 ∧ p = u.dropLast := by
  rcases List.eq_nil_or_concat' u with rfl | ⟨q, a, rfl⟩
  · simp
  have hsum : byteSum (q ++ [a]) % 256 = 255 ↔ checksum q = a := by
    rw [checksum_eq_iff, byteSum_append, byteSum, byteSum, Nat.add_zero]
  rw [hsum, List.dropLast_concat]
  constructor
  · intro h
    obtain ⟨rfl, hlast⟩ := List.append_inj' h rfl
    exact ⟨by simp, (List.singleton_inj.1 hlast).symm, rfl⟩
  · rintro ⟨-, rfl, rfl⟩
    rfl

theorem decodeBody_eq_ok : decodeBody body = .ok p ↔ unstuff body = .ok (p ++ [checksum p]) := by
  refine ⟨fun hd => ?_, fun hu => by rw [decodeBody_of_ok hu, verdict_match]⟩
  rcases decodeBody_cases body with ⟨-, h⟩ | ⟨-, h⟩ | ⟨_, _, -, -, h⟩ | ⟨q, hu, h⟩ <;> cases h.symm.trans hd
  exact hu

theorem decodeBody_eq_ok_iff_byteSum :
    decodeBody body = .ok p ↔
      ∃ u, unstuff body = .ok u ∧ 1 ≤ u.length ∧ byteSum u % 256 = 255 ∧ p = u.dropLast := by
  simp only [decodeBody_eq_ok, ← eq_append_checksum_iff, exists_eq_right]

theorem decodeBody_eq_truncatedEscape :
    decodeBody body = .error .truncatedEscape ↔ trailingEscRun body % 2 = 1 := by
  rw [← takeAll_open_iff]
  refine ⟨fun hd => ?_, fun hopen => decodeBody_of_open (unstuff_of_open hopen)⟩
  rcases decodeBody_cases body with ⟨hu, -⟩ | ⟨-, h⟩ | ⟨_, _, -, -, h⟩ | ⟨_, -, h⟩
  · exact (unstuff_eq_error.1 hu).1
  all_goals cases h.symm.trans hd

/-- Every byte or pair gives a byte, so only the empty body is unstuffed to nothing (R97). -/
theorem unstuff_eq_ok_nil : unstuff body = .ok [] ↔ body = [] := by
  refine ⟨fun hu => ?_, fun h => by rw [h]; rfl⟩
  obtain ⟨-, hleast, -⟩ := unstuffLength body [] hu
  rw [List.length_nil] at hleast
  exact List.length_eq_zero_iff.1 (by omega)

theorem decodeBody_eq_emptyBody : decodeBody body = .error .emptyBody ↔ body = [] := by
  rw [← unstuff_eq_ok_nil]
  refine ⟨fun hd => ?_, decodeBody_of_ok⟩
  rcases decodeBody_cases body with ⟨-, h⟩ | ⟨hu, -⟩ | ⟨_, _, -, -, h⟩ | ⟨_, -, h⟩
  · cases h.symm.trans hd
  · exact hu
  all_goals cases h.symm.trans hd

theorem decodeBody_eq_checksumMismatch {e a : Byte} :
    decodeBody body = .error (.checksumMismatch e a) ↔
      ∃ u, unstuff body = .ok u ∧ u.getLast? = some a ∧ e = checksum u.dropLast ∧ e ≠ a := by
  constructor
  · intro hd
    rcases decodeBody_cases body with ⟨-, h⟩ | ⟨-, h⟩ | ⟨p, a, hu, hc, h⟩ | ⟨_, -, h⟩ <;> cases h.symm.trans hd
    exact ⟨_, hu, List.getLast?_concat, by rw [List.dropLast_concat], hc⟩
  · rintro ⟨u, hu, hlast, rfl, hc⟩
    obtain ⟨p, rfl⟩ := List.getLast?_eq_some_iff.1 hlast
    rw [List.dropLast_concat] at hc ⊢
    rw [decodeBody_of_ok hu, verdict_mismatch hc]

end

/-- The body is empty exactly if a `FLAG` stands right after the start delimiter. -/
theorem exists_isTerminator_empty {inp : List Byte} :
    (∃ j, isTerminator inp j ∧ bodyAt inp j = []) ↔ inp[1]? = some FLAG := by
  constructor
  · rintro ⟨j, ⟨hpos, hflag, -⟩, hbody⟩
    obtain ⟨hlt, -⟩ := List.getElem?_eq_some_iff.1 hflag
    have hlen := congrArg List.length hbody
    simp only [bodyAt, List.length_drop, List.length_take, List.length_nil] at hlen
    obtain rfl : j = 1 := by omega
    exact hflag
  · intro hflag
    refine ⟨1, ⟨Nat.le_refl 1, hflag, fun k hpos hk => ?_⟩, ?_⟩
    · omega
    · cases inp <;> rfl

/-- Settles O21: the body is accepted if UNSTUFF makes of it a payload and its checksum byte. -/
theorem decodeAcceptsExactly : Obligations.DecodeAcceptsExactly := by
  intro inp p s ha
  rw [exec_decode_eq_iff ha, decodeFrame_eq_iff_body (r := .ok p) ⟨nofun, nofun, nofun⟩]
  simp only [decodeBody_eq_ok_iff_byteSum, exists_and_left]
  exact ⟨id, id⟩

/-- Settles O22: the first three errors are about the capacity and the delimiters, the others about the body. -/
theorem decodeErrorCauses : Obligations.DecodeErrorCauses := by
  intro inp s ha
  simp only [exec_decode_eq_iff ha]
  refine ⟨decodeFrame_eq_capacityExceeded, decodeFrame_eq_missingStartDelimiter, decodeFrame_eq_unterminatedFrame,
    ?_, ?_, fun e a => ?_⟩
  · rw [decodeFrame_eq_iff_body (r := .error .truncatedEscape) ⟨nofun, nofun, nofun⟩]
    simp only [decodeBody_eq_truncatedEscape]
  · rw [decodeFrame_eq_iff_body (r := .error .emptyBody) ⟨nofun, nofun, nofun⟩]
    simp only [decodeBody_eq_emptyBody, exists_isTerminator_empty]
  · rw [decodeFrame_eq_iff_body (r := .error (.checksumMismatch e a)) ⟨nofun, nofun, nofun⟩]
    simp only [decodeBody_eq_checksumMismatch, exists_and_left]

/-! ## The length of the payload -/

/-- Both delimiters and the checksum byte are beside the payload in the input, and UNSTUFF never lengthens (R129). -/
theorem decodeFrame_payload_length {m : Nat} {inp p : List Byte} (h : decodeFrame m inp = .ok p) :
    p.length + 3 ≤ fmax m := by
  rcases decodeFrame_cases m inp with ⟨-, h'⟩ | ⟨hfits, ⟨-, h'⟩ | ⟨-, -, -, h'⟩ | ⟨body, after, rfl, -, h'⟩⟩
  · cases h'.symm.trans h
  · cases h'.symm.trans h
  · cases h'.symm.trans h
  · have hlen := unstuff_length_le (decodeBody_eq_ok.1 (h'.symm.trans h))
    simp only [List.length_append, List.length_cons, List.length_nil] at hlen hfits
    omega

/-- A payload of `n` zero bytes: neither they nor their checksum `0xFF` are reserved, so its frame is the shortest of
its length (R52). -/
theorem frameOf_replicate_zero_length (n : Nat) : (frameOf (List.replicate n 0x00#8)).length = n + 3 := by
  have hsum : checksum (List.replicate n 0x00#8) = 0xFF#8 := by
    rw [checksum, absorbAll_replicate, BitVec.mul_zero]
    rfl
  have hcount : reservedCount (List.replicate n 0x00#8) = 0 := by
    rw [reservedCount_eq_countP, List.countP_eq_zero]
    intro d hd
    rw [List.eq_of_mem_replicate hd]
    decide
  rw [frameOf_length, hsum, reservedCount_append, hcount, List.length_replicate]
  rfl

/-- Settles O25: the frame of `2*PMAX + 1` zero bytes is just within `FMAX`. -/
theorem decodedPayloadBound : Obligations.DecodedPayloadBound := by
  refine ⟨fun m inp p h => ?_, fun s ha => ?_⟩
  · have hlen := decodeFrame_payload_length h
    unfold fmax at hlen
    omega
  · have hframe := frameOf_replicate_zero_length (2 * s.pmax + 1)
    refine ⟨frameOf (List.replicate (2 * s.pmax + 1) 0x00#8),
      List.replicate (2 * s.pmax + 1) 0x00#8, List.length_replicate, ?_, ?_⟩
    · exact (exec_decode_eq_iff ha).2 (decodeFrame_frameOf hframe.le)
    · rw [exec_encode_of_idle ha, encodeFrame_of_full (by rw [List.length_replicate]; omega)]

/-! ## A request taken byte by byte -/

theorem step_staged {s : State} {inp : List Byte} {q : List Command} (hr : s.resetReq = false)
    (ha : s.active = .idle) (hp : s.pending = .staged inp :: q) :
    step s = .next (({ s with pending := q } : State).beginDecode .stagedDecoding false inp) := by
  have hw : s.window = none := by simp [State.window, ha, hp]
  exact step_of_sequence hr hw (by simp [State.sequence, State.idleRow, ha, hp])

/-- A DECODE request starts the machine that its command asks for. -/
theorem step_beginDecode {s : State} {pairs : Bool} {inp : List Byte} {q : List Command} {a : Activity} {p : Bool}
    (hr : s.resetReq = false) (ha : s.active = .idle)
    (hp : (s.pending = .serial 1#1 pairs inp :: q ∧ a = .decoding ∧ p = pairs) ∨
      (s.pending = .staged inp :: q ∧ a = .stagedDecoding ∧ p = false)) :
    step s = .next (({ s with pending := q } : State).beginDecode a p inp) := by
  rcases hp with ⟨hp, rfl, rfl⟩ | ⟨hp, rfl, rfl⟩
  · rw [step_serial hr ha hp, State.beginSerial_decode (by decide)]
  · exact step_staged hr ha hp

/-- Settles O47: each row is the start of the request on one side of the capacity. -/
theorem serialRequestRows : Obligations.SerialRequestRows := by
  intro s pairs inp q hr ha
  refine ⟨fun hp => ?_, fun a p hp => ?_⟩
  · rw [step_serial hr ha hp]
    exact ⟨fun hfull => congrArg Host.Outcome.next (State.beginSerial_encode_full hfull),
      fun hfits => congrArg Host.Outcome.next (State.beginSerial_encode_fits hfits)⟩
  · rw [step_beginDecode hr ha hp]
    exact ⟨fun hfull => congrArg Host.Outcome.next (State.beginDecode_of_full hfull),
      fun hfits => congrArg Host.Outcome.next (State.beginDecode_of_fits hfits)⟩

/-- Settles O59: the step that takes the request, and then the run of the machine it starts. -/
theorem deframerComputesDecode : Obligations.DeframerComputesDecode := by
  intro s pairs inp q hr ha hp
  obtain ⟨a, p, hact, hstep⟩ : ∃ a p, (a = .decoding ∨ a = .stagedDecoding) ∧
      step s = .next (({ s with pending := q } : State).beginDecode a p inp) := by
    rcases hp with hp | hp
    · exact ⟨_, _, .inl rfl, step_beginDecode hr ha (.inl ⟨hp, rfl, rfl⟩)⟩
    · exact ⟨_, _, .inr rfl, step_staged hr ha hp⟩
  obtain ⟨k, hk, hrun⟩ := run_beginDecode hact p inp (s := { s with pending := q }) hr
  exact ⟨k + 1, by omega, (run_succ_of_step hstep k).trans hrun⟩

/-! ## Missing delimiters -/

/-- The end of the input in the body, in either machine and whether or not an escape is pending (R121, R155). -/
theorem step_noStop {s : State} (hr : s.resetReq = false) (ha : s.active = .decoding ∨ s.active = .stagedDecoding)
    (hd : s.dstate = .readingBody) (hread : bufRead s.mem.input s.cursor = none) :
    step s = .next (s.fail .unterminatedFrame) := by
  have hl : s.mem.input.drop s.cursor = [] := List.drop_eq_nil_of_le (List.getElem?_eq_none_iff.1 hread)
  rcases ha with ha | ha
  · have hw := window_readingBody ha hd
    rw [hl] at hw
    refine step_of_reject (e := .noStop) hr hw ?_
    cases s.esc
    · cases s.pairs <;> rfl
    · rfl
  · exact step_of_reject hr (window_staged_end ha hd hl) decode_rxBody_nil

/-- No start delimiter at the cursor, in either machine (R121, R155). -/
theorem step_noStart {s : State} (hr : s.resetReq = false) (ha : s.active = .decoding ∨ s.active = .stagedDecoding)
    (hd : s.dstate = .expectStart) (hread : bufRead s.mem.input s.cursor ≠ some FLAG) :
    step s = .next (s.fail .missingStartDelimiter) := by
  have hw : s.window = some (.rxStart, s.mem.input.drop s.cursor) :=
    ha.elim (fun h => window_expectStart h hd) (fun h => window_staged_expectStart h hd)
  refine step_of_reject (e := .missingStart) hr hw ?_
  rw [← head?_drop_eq_bufRead] at hread
  cases hl : s.mem.input.drop s.cursor with
  | nil => rfl
  | cons b rest => exact decode_rxStart_other (by simpa [hl] using hread) rest

/-- Settles O46: the decoder rejects what stands at the cursor, and the step records the error. -/
theorem missingDelimitersAreErrors : Obligations.MissingDelimitersAreErrors := fun _ hr ha =>
  ⟨fun hd hread => step_noStart hr ha hd hread, fun hd hread => step_noStop hr ha hd hread⟩

/-! ## A received byte -/

/-- What one received byte does to DECODE in either machine: the rows of R121 and R155 that consume a byte, and the
states in which none is read. -/
inductive State.ByteRead (b : Byte) (s t : State) : Prop
  /-- The start delimiter. -/
  | start (hd : s.dstate = .expectStart) (hb : b = FLAG) (ht : t = { s.advance with dstate := .readingBody })
  /-- A body byte; only the deframer looks at escapes. -/
  | body (hd : s.dstate = .readingBody) (e : Bool) (he : s.active = .stagedDecoding → e = s.esc) (bs : List Byte)
      (ht : t = { s.advance with esc := e, mem := { s.mem with work := s.mem.work ++ bs } })
  /-- The terminating delimiter. -/
  | stop (hd : s.dstate = .readingBody) (ht : t = { s.advance with dstate := .expectEnd })
  /-- An error. -/
  | fail (k : ErrorKind) (ht : t = s.fail k)
  /-- No byte is read. -/
  | closed (h1 : s.dstate ≠ .expectStart) (h2 : s.dstate ≠ .readingBody) (ht : t = s)

section
variable {s t : State} {b : Byte}

theorem State.deframe_byteRead (ha : s.active = .decoding) (b : Byte) : s.ByteRead b (s.deframe b) := by
  unfold State.deframe
  split
  · next hd =>
    split
    · next hb => exact .start hd (beq_iff_eq.1 hb) rfl
    · exact .fail _ rfl
  · next hd =>
    split
    · split
      · exact .fail _ rfl
      · exact .stop hd rfl
    · split
      · next w hw =>
        obtain ⟨-, rfl⟩ := bufPushAll_eq_some.1 hw
        exact .body hd _ (by simp [ha]) _ rfl
      · exact .fail _ rfl
  all_goals next hd => exact .closed (by simp [hd]) (by simp [hd]) rfl

theorem State.collect_byteRead (b : Byte) (s : State) : s.ByteRead b (s.collect b) := by
  unfold State.collect
  split
  · next hd =>
    split
    · next hb => exact .start hd (beq_iff_eq.1 hb) rfl
    · exact .fail _ rfl
  · next hd =>
    split
    · exact .stop hd rfl
    · split
      · next w hw =>
        obtain ⟨-, rfl⟩ := bufPush_eq_some.1 hw
        exact .body hd s.esc (fun _ => rfl) [b] rfl
      · exact .fail _ rfl
  all_goals next hd => exact .closed (by simp [hd]) (by simp [hd]) rfl

theorem State.rxBytes_byteRead (ha : s.active = .decoding ∨ s.active = .stagedDecoding) (b : Byte) :
    s.ByteRead b (s.rxBytes [b]) := by
  rcases ha with ha | ha
  · rw [State.rxBytes_byte_decoding ha]
    exact State.deframe_byteRead ha b
  · rw [State.rxBytes_byte_stagedDecoding ha]
    exact State.collect_byteRead b s

theorem State.ByteRead.ne_expectStart (h : s.ByteRead b t) : t.dstate ≠ .expectStart := by
  cases h with
  | body hd e he bs ht => simp [ht, hd]
  | closed h1 h2 ht => rwa [ht]
  | start _ _ ht | stop _ ht | fail _ ht => simp [ht]

/-- Only the start delimiter opens the body. -/
theorem State.ByteRead.readingBody (h : s.ByteRead b t) (hb : b ≠ FLAG) (ht : t.dstate = .readingBody) :
    s.dstate = .readingBody := by
  cases h with
  | start _ hb' => exact absurd hb' hb
  | body hd => exact hd
  | stop hd => exact hd
  | fail k ht' => simp [ht'] at ht
  | closed _ _ ht' => rwa [ht'] at ht

/-! ## After the terminating delimiter -/

/-- In `ExpectEnd`, `Done` and `Failed` no byte is read, however many are received (R121, R124). -/
theorem State.rxBytes_closed (ha : s.active = .decoding ∨ s.active = .stagedDecoding) (h1 : s.dstate ≠ .expectStart)
    (h2 : s.dstate ≠ .readingBody) (bs : List Byte) : s.rxBytes bs = s := by
  rcases ha with ha | ha
  · rw [State.rxBytes_decoding ha]
    induction bs with
    | nil => rfl
    | cons b rest ih => rw [State.deframeAll, State.deframe_closed h1 h2, ih]
  · rw [State.rxBytes_stagedDecoding ha]
    induction bs with
    | nil => rfl
    | cons b rest ih => rw [State.collectAll, State.collect_closed h1 h2, ih]

end

/-- A receive symbol gives the receive side its one byte, or a marker and its operand (R54, R55). -/
theorem exec_receive {i : Instr} {b : Byte}
    (hi : i ∈ [Instr.rxStart, .rxStop, .rxEsc, .rxLiteral b, .rxOperand b, .escPair b, .escPairFlag, .escPairEsc,
      .escPairXon, .escPairXoff]) (s : State) :
    (∃ c, exec i s = .next (s.rxBytes [c])) ∨ ∃ v, exec i s = .next (s.rxBytes [ESC, v]) := by
  simp only [List.mem_cons, List.not_mem_nil, or_false] at hi
  rcases hi with rfl | rfl | rfl | rfl | rfl | hpair
  case inr.inr.inr.inr.inr => rcases hpair with rfl | rfl | rfl | rfl | rfl <;> exact .inr ⟨_, rfl⟩
  all_goals exact .inl ⟨_, rfl⟩

/-- Settles O41: none of the symbol's bytes is read. -/
theorem closedDecoderReadsNothing : Obligations.ClosedDecoderReadsNothing := by
  intro s i b ha hd hi
  have h1 : s.dstate ≠ .expectStart := by rcases hd with hd | hd | hd <;> simp [hd]
  have h2 : s.dstate ≠ .readingBody := by rcases hd with hd | hd | hd <;> simp [hd]
  rcases exec_receive hi s with ⟨c, h⟩ | ⟨v, h⟩ <;> rw [h, State.rxBytes_closed ha h1 h2]

/-! ## The frame of the receive symbols -/

/-- What DECODE leaves unchanged while it reads bytes: `W` only grows, and only in the body; an outcome is written only
by a failure. -/
structure State.Reads (s t : State) : Prop where
  same : s.SameOperation t
  acc : t.acc = s.acc
  tstate : t.tstate = s.tstate
  output : t.mem.output = s.mem.output
  emitted : t.emitted = s.emitted
  esc : s.active = .stagedDecoding → t.esc = s.esc
  work : ∃ bs, t.mem.work = s.mem.work ++ bs
  inBody : t.mem.work ≠ s.mem.work → s.dstate = .readingBody
  failed : t.outcome ≠ s.outcome → t.dstate = .failed

section
variable {s t u : State} {b : Byte}

theorem State.ByteRead.reads (h : s.ByteRead b t) : s.Reads t := by
  have same : ∃ bs, s.mem.work = s.mem.work ++ bs := ⟨[], (List.append_nil _).symm⟩
  have keeps : s.SameOperation s.advance := ⟨⟨rfl, rfl, rfl⟩, rfl, rfl, rfl, rfl, rfl⟩
  cases h with
  | start _ _ ht | stop _ ht =>
    subst ht
    exact ⟨keeps, rfl, rfl, rfl, rfl, fun _ => rfl, same, fun h => absurd rfl h, fun h => absurd rfl h⟩
  | body hd e he bs ht =>
    subst ht
    exact ⟨keeps, rfl, rfl, rfl, rfl, he, ⟨bs, rfl⟩, fun _ => hd, fun h => absurd rfl h⟩
  | fail k ht =>
    subst ht
    exact ⟨State.fail_keeps k s, rfl, rfl, rfl, rfl, fun _ => rfl, same, fun h => absurd rfl h,
      fun _ => rfl⟩
  | closed _ _ ht =>
    subst ht
    exact ⟨.refl _, rfl, rfl, rfl, rfl, fun _ => rfl, same, fun h => absurd rfl h, fun h => absurd rfl h⟩

/-- Two bytes one after the other, both in the body. -/
theorem State.Reads.trans (h : s.Reads t) (g : t.Reads u) (hs : s.dstate = .readingBody)
    (ht : t.dstate = .readingBody) : s.Reads u where
  same := h.same.trans g.same
  acc := g.acc.trans h.acc
  tstate := g.tstate.trans h.tstate
  output := g.output.trans h.output
  emitted := g.emitted.trans h.emitted
  esc ha := (g.esc (h.same.active_eq.trans ha)).trans (h.esc ha)
  work := by
    obtain ⟨x, hx⟩ := h.work
    obtain ⟨y, hy⟩ := g.work
    exact ⟨x ++ y, by rw [hy, hx, List.append_assoc]⟩
  inBody _ := hs
  failed hne := by
    have hkept : t.outcome = s.outcome := by
      by_contra hne'
      simp [h.failed hne'] at ht
    exact g.failed (hkept ▸ hne)

/-- The operand of a pair is read in the body, or not at all. -/
theorem State.rxBytes_pair_reads (ha : s.active = .decoding ∨ s.active = .stagedDecoding) (v : Byte) :
    s.Reads (s.rxBytes [ESC, v]) := by
  have hmarker := State.rxBytes_byteRead ha ESC
  have ha' : (s.rxBytes [ESC]).active = .decoding ∨ (s.rxBytes [ESC]).active = .stagedDecoding := by
    rwa [hmarker.reads.same.active_eq]
  rw [show [ESC, v] = [ESC] ++ [v] from rfl, State.rxBytes_append]
  by_cases hopen : (s.rxBytes [ESC]).dstate = .readingBody
  · exact hmarker.reads.trans (State.rxBytes_byteRead ha' v).reads (hmarker.readingBody (by decide) hopen) hopen
  · rw [State.rxBytes_closed ha' hmarker.ne_expectStart hopen]
    exact hmarker.reads

/-- Where no DECODE is in progress the Unstuffer takes the bytes on its own, and only a stand-alone run has a cursor to
move (R142). -/
theorem State.rxBytes_alone (h1 : s.active ≠ .decoding) (h2 : s.active ≠ .stagedDecoding) (bs : List Byte) :
    ∃ c, s.rxBytes bs = { s.takeAlone bs with cursor := c } := by
  unfold State.rxBytes
  split
  · next ha => exact absurd ha h1
  · next ha => exact absurd ha h2
  all_goals exact ⟨_, rfl⟩

end

/-- Settles O42: DECODE reads the symbol, or the Unstuffer on its own takes it. -/
theorem receiveFrame : Obligations.ReceiveFrame := by
  intro s t i b hi ht
  by_cases ha : s.active = .decoding ∨ s.active = .stagedDecoding
  · have hreads : s.Reads t := by
      rcases exec_receive hi s with ⟨c, h⟩ | ⟨v, h⟩ <;> cases h.symm.trans ht
      · exact (State.rxBytes_byteRead ha c).reads
      · exact State.rxBytes_pair_reads ha v
    obtain ⟨⟨⟨hpmax, hpending, hreset⟩, hactive, hpairs, hoperand, hunit, hinput⟩, hacc, htstate, houtput, hemitted,
      hesc, ⟨bs, hwork⟩, hbody, hfailed⟩ := hreads
    refine ⟨hpmax, hacc, htstate, hactive, hpairs, hoperand, hunit, hpending, hreset, fun k => by rw [hinput],
      fun k => by rw [houtput], fun k hk => ?_, fun hne => ⟨ha, hbody hne⟩,
      fun hne => absurd hemitted hne, fun hne hstaged => hne (hesc hstaged), fun _ => ha,
      fun hne => ⟨hfailed hne, ha⟩⟩
    rw [hwork]
    exact List.getElem?_append_left hk
  · obtain ⟨h1, h2⟩ := not_or.1 ha
    obtain ⟨bs, c, rfl⟩ : ∃ bs c, t = { s.takeAlone bs with cursor := c } := by
      rcases exec_receive hi s with ⟨b, h⟩ | ⟨v, h⟩ <;> cases h.symm.trans ht <;>
        exact ⟨_, State.rxBytes_alone h1 h2 _⟩
    exact ⟨rfl, rfl, rfl, rfl, rfl, rfl, rfl, rfl, rfl, fun _ => rfl, fun _ => rfl, fun _ _ => rfl,
      fun hne => absurd rfl hne, fun _ => ⟨h1, h2⟩, fun _ => h2, fun hne => absurd rfl hne,
      fun hne => absurd rfl hne⟩

end Sys2Proof.Machine
end

section
/-! PROOFS. The byte-serial datapaths (spec/44_byte_serial_datapaths.md): the leaf units on their own and what they
compute (R140 to R142, R146), the framer's rows, its frame and the ENCODE it computes (R150, R151), the checksum in one
pass (R157), and what the whole operations leave behind (R158, R177, R211). -/

namespace Sys2Proof.Machine

/-! ## The checksum in one pass -/

theorem not8_eq_sub (b : Byte) : not8 b = 0xFF#8 - b := by
  have hb := b.isLt
  apply BitVec.eq_of_toNat_eq
  rw [toNat_not8, BitVec.toNat_sub, BitVec.toNat_ofNat]
  omega

theorem absorbAll_concat (acc : Byte) (p : List Byte) (a : Byte) :
    absorbAll acc (p ++ [a]) = absorbAll acc p + a := absorbAll_append acc p [a]

/-- Over the payload and the last byte the accumulator is all ones exactly if that byte is the payload's checksum. -/
theorem absorbAll_concat_eq_ones_iff (p : List Byte) (a : Byte) :
    absorbAll 0x00#8 (p ++ [a]) = 0xFF#8 ↔ checksum p = a := by
  rw [absorbAll_concat, checksum, not8_eq_sub, sub_eq_iff_eq_add', eq_comm]

/-- Taking the last byte away again leaves the payload's sum. -/
theorem not8_absorbAll_concat_sub (p : List Byte) (a : Byte) :
    not8 (absorbAll 0x00#8 (p ++ [a]) - a) = checksum p := by
  rw [absorbAll_concat, add_sub_cancel_right, checksum]

theorem onePassVerdict_concat (p : List Byte) (a : Byte) :
    onePassVerdict (p ++ [a]) =
      if checksum p = a then .ok p else .error (.checksumMismatch (checksum p) a) := by
  simp only [onePassVerdict, List.getLast?_concat, List.dropLast_concat, beq_iff_eq, absorbAll_concat_eq_ones_iff,
    not8_absorbAll_concat_sub]

theorem verdict_concat (p : List Byte) (a : Byte) :
    verdict (p ++ [a]) = if checksum p = a then .ok p else .error (.checksumMismatch (checksum p) a) := by
  split
  · next h => rw [← h, verdict_match]
  · next h => exact verdict_mismatch h

/-- Settles O26: on a body with a last byte both verdicts compare that byte with the payload's checksum. -/
theorem onePassValidationAgrees : Obligations.OnePassValidationAgrees := by
  refine ⟨fun u => ?_, fun p a => ⟨?_, ?_⟩⟩
  · rcases List.eq_nil_or_concat' u with rfl | ⟨p, a, rfl⟩
    · rfl
    · rw [onePassVerdict_concat, verdict_concat]
  · rw [absorbAll_concat_eq_ones_iff, verdict_concat]
    simp
  · rw [← not8_absorbAll_concat_sub p a, not8_eq_sub, sub_add]

/-! ## What the whole operations leave behind -/

theorem State.handOver_workingInitial (u : UnitResult) (s : State) : (s.handOver u).workingInitial :=
  ⟨rfl, rfl, rfl, rfl, rfl, rfl, rfl, rfl, rfl⟩

/-- Settles O28: ENCODE and DECODE end in `deliver`, the other operations in `handOver`. -/
theorem wholeOperationsRetainNothing : Obligations.WholeOperationsRetainNothing := by
  intro x s ha c hc
  simp only [List.mem_cons, List.not_mem_nil, or_false] at hc
  rcases hc with rfl | rfl | rfl | rfl | rfl | rfl
  case inl | inr.inl =>
    exact ⟨_, State.atomic_of_idle ha, rfl, rfl, rfl, State.deliver_workingInitial _ s, fun _ => ⟨rfl, rfl, rfl⟩,
      rfl, rfl, rfl⟩
  all_goals
    exact ⟨_, State.atomic_of_idle ha, rfl, rfl, rfl, State.handOver_workingInitial _ s, fun _ => ⟨rfl, rfl, rfl⟩,
      rfl, rfl, rfl⟩

/-! ## The Stuffer on its own -/

/-- Where neither the framer nor a stand-alone run asks for the byte, the Stuffer's action stands alone (log
entry 10). -/
theorem State.txByte_unasked {s : State} (hs : s.active ≠ .stuffing)
    (hf : ¬ (s.active = .encoding ∧ (s.tstate = .data ∨ s.tstate = .cksum))) (d : Byte) :
    s.txByte d = s.emitAlone d := by
  unfold State.txByte
  split
  · next ha =>
    split
    · next ht => exact absurd ⟨ha, .inl ht⟩ hf
    · next ht => exact absurd ⟨ha, .inr ht⟩ hf
    all_goals rfl
  · next ha => exact absurd ha hs
  all_goals rfl

/-- The Stuffer wherever it is not the framer that gives it the byte, `n` being the cursor's move (R141). -/
theorem State.txByte_alone {s : State} {n : Nat}
    (h : (s.active = .stuffing ∧ n = 1) ∨
      (s.active ≠ .stuffing ∧ ¬ (s.active = .encoding ∧ (s.tstate = .data ∨ s.tstate = .cksum)) ∧ n = 0)) (d : Byte) :
    s.txByte d = { s with emitted := s.emitted ++ emit d, cursor := s.cursor + n } := by
  rcases h with ⟨ha, rfl⟩ | ⟨hs, hf, rfl⟩
  · exact State.txByte_stuffing ha
  · exact State.txByte_unasked hs hf d

/-- Settles O32: each class is what the Stuffer returns for its byte. -/
theorem stufferAlone : Obligations.StufferAlone := by
  intro s n h
  obtain ⟨hescaped, hliteral⟩ := exec_txClasses (fun _ => True)
    (next := fun _ bs => { s with emitted := s.emitted ++ bs, cursor := s.cursor + n })
    fun d bs he _ => he ▸ State.txByte_alone h d
  obtain ⟨hflag, hesc, hxon, hxoff⟩ := hescaped trivial
  exact ⟨hflag, hesc, hxon, hxoff, fun d hd => hliteral d hd trivial⟩

/-! ## The frame of the transmit classes -/

theorem exec_transmit {i : Instr} {d : Byte}
    (hi : i ∈ [Instr.txEscFlag, .txEscEsc, .txEscXon, .txEscXoff, .txLiteral d]) (s : State) :
    ∃ b, exec i s = .next (s.txByte b) := by
  simp only [List.mem_cons, List.not_mem_nil, or_false] at hi
  rcases hi with rfl | rfl | rfl | rfl | rfl <;> exact ⟨_, rfl⟩

/-- Settles O35: the Stuffer is given a payload byte, the checksum byte, or a byte that the framer did not ask for. -/
theorem transmitFrame : Obligations.TransmitFrame := by
  intro s t i d hi hroom ht
  obtain ⟨b, hexec⟩ := exec_transmit hi s
  cases hexec.symm.trans ht
  have hemit := emit_length_le b
  by_cases hf : s.active = .encoding ∧ (s.tstate = .data ∨ s.tstate = .cksum)
  · obtain ⟨ha, hphase⟩ := hf
    obtain ⟨hw, ho⟩ := hroom ha hphase
    have ho' : s.mem.output.length + (emit b).length ≤ fmax s.pmax := by omega
    rcases hphase with hs | hs
    · rw [State.txByte_payload ha hs rfl hw ho']
      exact ⟨rfl, rfl, rfl, rfl, rfl, rfl, rfl, rfl, rfl, rfl, fun _ => ⟨ha, hs⟩, fun _ => ⟨rfl, .inl ⟨ha, hs⟩⟩,
        fun h => absurd rfl h, fun h => absurd rfl h, fun _ => rfl, fun _ hk => List.getElem?_append_left hk,
        fun _ hk => List.getElem?_append_left hk, fun h => absurd ⟨ha, .inl hs⟩ h⟩
    · rw [State.txByte_checksum ha hs rfl hw ho']
      exact ⟨rfl, rfl, rfl, rfl, rfl, rfl, rfl, rfl, rfl, rfl, fun h => absurd rfl h, fun h => absurd rfl h,
        fun _ => ⟨ha, hs, rfl⟩, fun h => absurd rfl h, fun _ => rfl, fun _ hk => List.getElem?_append_left hk,
        fun _ hk => List.getElem?_append_left hk, fun h => absurd ⟨ha, .inr hs⟩ h⟩
  · obtain ⟨n, hn⟩ : ∃ n, (s.active = .stuffing ∧ n = 1) ∨
        (s.active ≠ .stuffing ∧ ¬ (s.active = .encoding ∧ (s.tstate = .data ∨ s.tstate = .cksum)) ∧ n = 0) := by
      by_cases hs : s.active = .stuffing
      · exact ⟨1, .inl ⟨hs, rfl⟩⟩
      · exact ⟨0, .inr ⟨hs, hf, rfl⟩⟩
    rw [State.txByte_alone hn]
    refine ⟨rfl, rfl, rfl, rfl, rfl, rfl, rfl, rfl, rfl, rfl, fun h => absurd rfl h, ?_, fun h => absurd rfl h,
      fun _ => hf, fun _ => rfl, fun _ _ => rfl, fun _ _ => rfl, fun _ _ => ⟨rfl, rfl⟩⟩
    rcases hn with ⟨hs, rfl⟩ | ⟨-, -, rfl⟩
    · exact fun _ => ⟨rfl, .inr hs⟩
    · exact fun h => absurd rfl h

/-! ## The Unstuffer on its own -/

section
variable {s : State} {n : Nat}
  (h : (s.active = .unstuffing ∧ n = 1) ∨
    (s.active ≠ .unstuffing ∧ s.active ≠ .decoding ∧ s.active ≠ .stagedDecoding ∧ n = 0))
include h

/-- The Unstuffer wherever no DECODE is in progress, `n` being the cursor's move for each byte (R142). -/
theorem State.rxBytes_takes {bs out : List Byte} {e : Bool} (ht : takeAll s.esc bs = (e, out)) :
    s.rxBytes bs = { s with esc := e, emitted := s.emitted ++ out, cursor := s.cursor + bs.length * n } := by
  rcases h with ⟨ha, rfl⟩ | ⟨h0, h1, h2, rfl⟩
  · rw [State.rxBytes_unstuffing ha, State.takeAlone, ht, Nat.mul_one]
  · have halone : s.rxBytes bs = s.takeAlone bs := by
      unfold State.rxBytes
      split
      · next ha => exact absurd ha h1
      · next ha => exact absurd ha h2
      · next ha => exact absurd ha h0
      all_goals rfl
    rw [halone, State.takeAlone, ht, Nat.mul_zero, Nat.add_zero]

theorem State.rxBytes_marker_alone (he : s.esc = false) :
    s.rxBytes [ESC] = { s with esc := true, cursor := s.cursor + n } := by
  have ht : takeAll s.esc [ESC] = (true, []) := by rw [he, takeAll_singleton, take_marker]
  simpa using State.rxBytes_takes h ht

theorem State.rxBytes_literal_alone (he : s.esc = false) {b : Byte} (hb : b ≠ ESC) :
    s.rxBytes [b] = { s with emitted := s.emitted ++ [b], cursor := s.cursor + n } := by
  have ht : takeAll s.esc [b] = (false, [b]) := by rw [he, takeAll_singleton, take_literal hb]
  simpa [← he] using State.rxBytes_takes h ht

theorem State.rxBytes_operand_alone (he : s.esc = true) (v : Byte) :
    s.rxBytes [v] = { s with esc := false, emitted := s.emitted ++ [v ^^^ MASK], cursor := s.cursor + n } := by
  have ht : takeAll s.esc [v] = (false, [v ^^^ MASK]) := by rw [he, takeAll_singleton, take_operand]
  simpa using State.rxBytes_takes h ht

theorem State.rxBytes_pair_alone (he : s.esc = false) (v : Byte) :
    s.rxBytes [ESC, v] = { s with emitted := s.emitted ++ [v ^^^ MASK], cursor := s.cursor + 2 * n } := by
  have ht : takeAll s.esc [ESC, v] = (false, [v ^^^ MASK]) := by rw [he]; rfl
  simpa [← he] using State.rxBytes_takes h ht

end

/-- Settles O40: a marker, a literal, a pair and an operand; `FLAG` is a literal. -/
theorem unstufferAlone : Obligations.UnstufferAlone := by
  intro s n h
  refine ⟨fun he => ?_, fun he v => congrArg Host.Outcome.next (State.rxBytes_operand_alone h he v)⟩
  have literal := fun {b} (hb : b ≠ ESC) =>
    congrArg (Host.Outcome.next (φ := Fault) (ρ := Refusal)) (State.rxBytes_literal_alone h he hb)
  have pair := fun v => congrArg (Host.Outcome.next (φ := Fault) (ρ := Refusal)) (State.rxBytes_pair_alone h he v)
  refine ⟨congrArg Host.Outcome.next (State.rxBytes_marker_alone h he),
    fun b hwf => literal (by simpa [Instr.wf] using hwf), fun i hi => ?_, fun p hp => ?_, pair⟩
  · simp only [List.mem_cons, List.not_mem_nil, or_false] at hi
    rcases hi with rfl | rfl <;> exact literal (by decide)
  · simp only [List.mem_cons, List.not_mem_nil, or_false] at hp
    rcases hp with rfl | rfl | rfl | rfl
    · exact pair 0x5E#8
    · exact pair 0x5D#8
    · exact pair 0x31#8
    · exact pair 0x33#8

/-! ## The framer's rows -/

theorem step_framerRow {s : State} (hr : s.resetReq = false) (ha : s.active = .encoding) (hw : s.window = none) :
    step s = .next s.framerRow := step_of_sequence hr hw (by simp only [State.sequence, ha])

theorem State.framerRow_start {s : State} (hs : s.tstate = .start) (ho : s.mem.output.length < fmax s.pmax) :
    s.framerRow = { s with tstate := .data, mem := { s.mem with output := s.mem.output ++ [FLAG] } } := by
  simp only [State.framerRow, hs]
  exact State.pushOut_of_fits (bs := [FLAG]) ho

theorem State.framerRow_stop {s : State} (hs : s.tstate = .stop) (ho : s.mem.output.length < fmax s.pmax) :
    s.framerRow = { s with tstate := .done, mem := { s.mem with output := s.mem.output ++ [FLAG] } } := by
  simp only [State.framerRow, hs]
  exact State.pushOut_of_fits (bs := [FLAG]) ho

theorem State.framerRow_data {s : State} (hs : s.tstate = .data) : s.framerRow = { s with tstate := .cksum } := by
  simp only [State.framerRow, hs]

/-- Settles O48: no byte is presented to the decoder, and the row of the phase is taken. -/
theorem framerRows : Obligations.FramerRows := by
  intro s hr ha
  have row := step_framerRow hr ha
  refine ⟨fun hs ho => ?_, fun hs hc => ?_, fun hs ho => ?_, fun hs => ?_⟩
  · rw [row (by simp only [State.window, ha, hs]), State.framerRow_start hs ho]
  · rw [row (window_payload_end ha hs hc.ge), State.framerRow_data hs]
  · rw [row (by simp only [State.window, ha, hs]), State.framerRow_stop hs ho]
  · rw [row (by simp only [State.window, ha, hs]), State.framerRow_done hs]

/-! ## The framer computes ENCODE -/

theorem run_add_of_run {j : Nat} {s t : State} (h : Host.Core.run core j s = .next t) (k : Nat) :
    Host.Core.run core (j + k) s = Host.Core.run core k t := by
  induction j generalizing s with
  | zero =>
    cases h
    rw [Nat.zero_add]
  | succ j ih =>
    obtain ⟨u, hstep, -⟩ := step_cases s
    rw [run_succ_of_step hstep] at h
    rw [Nat.succ_add, run_succ_of_step hstep, ih h]

theorem State.framerLeft_eq_zero {s : State} : s.framerLeft = 0 ↔ s.tstate = .done := by
  unfold State.framerLeft
  split <;> simp_all

/-- The framer takes just the transitions left to it to T_DONE, in its invariant (R151). -/
theorem framer_reaches_done {s : State} (hr : s.resetReq = false) (ha : s.active = .encoding) (h : s.Inv) :
    ∃ t, Host.Core.run core s.framerLeft s = .next t ∧ s.SameOperation t ∧ t.Inv ∧ t.tstate = .done := by
  induction hn : s.framerLeft generalizing s with
  | zero => exact ⟨s, rfl, .refl s, h, State.framerLeft_eq_zero.1 hn⟩
  | succ n ih =>
    obtain ⟨u, hstep, hc⟩ := step_cases s
    have hnext := stepCase_framer hc hr ha h fun hd => by simp [State.framerLeft_eq_zero.2 hd] at hn
    have hsame := hnext.same
    obtain ⟨t, hrun, hsame', ht⟩ := ih (hsame.resetReq_eq.trans hr) (hsame.active_eq.trans ha)
      (everyStepKeepsTheInvariant s u h hstep) (Nat.succ.inj (hnext.left.trans hn))
    exact ⟨t, (run_succ_of_step hstep n).trans hrun, hsame.trans hsame', ht⟩

/-- An accepted request of ENCODE reaches T_DONE in `n + 4` transitions (R151). -/
theorem framer_reaches_done_of_request {s : State} (pairs : Bool) {p : List Byte} (hr : s.resetReq = false)
    (hp : p.length ≤ s.pmax) :
    ∃ t, Host.Core.run core (p.length + 4) (s.beginSerial 0#1 pairs p) = .next t ∧ s.SameCaller t ∧
      t.active = .encoding ∧ t.tstate = .done ∧ t.mem.output = frameOf p ∧ t.mem.output.length ≤ fmax s.pmax ∧
      t.mem.work = p ++ [checksum p] := by
  have hbegin := State.beginSerial_encode_fits (pairs := pairs) hp
  have hinv := State.beginSerial_inv 0#1 pairs p s
  have hcaller := State.beginSerial_sameCaller 0#1 pairs p s
  rw [hbegin] at hinv hcaller ⊢
  obtain ⟨t, hrun, hsame, ht, hd⟩ :=
    framer_reaches_done (s := { s.begin with active := .encoding, mem := _ }) hr rfl hinv
  obtain ⟨hfit, -, -, hph⟩ := (State.inv_encoding hsame.active_eq).1 ht
  obtain ⟨-, -, hout⟩ := State.buffersFit_iff.1 hfit
  simp only [hd] at hph
  obtain ⟨-, -, hwork, hframe⟩ := hph
  rw [hsame.input_eq] at hwork hframe
  rw [hsame.pmax_eq] at hout
  exact ⟨t, hrun, hcaller.trans hsame.1, hsame.active_eq, hd, hframe, hout, hwork⟩

/-- Settles O58: the step that takes the request, the transitions to T_DONE, and the step that delivers. -/
theorem framerComputesEncode : Obligations.FramerComputesEncode := by
  intro s pairs p q hr ha hq
  have hstep := run_succ_of_step (step_serial hr ha hq) 0
  refine ⟨fun hp => ?_, fun hp => ?_⟩
  · obtain ⟨t, hrun, hcaller, hat, hd, hout, hfit, hwork⟩ :=
      framer_reaches_done_of_request (s := { s with pending := q }) pairs hr hp
    have hdone := (run_add_of_run hstep _).trans hrun
    refine ⟨⟨t, hdone, hat, hd, hout, hfit, hwork⟩, ?_⟩
    have ⟨_, _, hreset⟩ := hcaller
    obtain ⟨-, -, -, hdeliver⟩ := framerRows t (hreset.trans hr) hat
    rw [run_add_of_run hdone, run_succ_of_step (hdeliver hd), hout, State.deliver_of_sameCaller hcaller,
      encodeFrame_of_fits hp]
    rfl
  · rw [encodeFrame_of_full hp, ← State.beginSerial_encode_full (pairs := pairs) (s := { s with pending := q }) hp]
    exact hstep

/-! ## The leaf machines compute the leaf functions -/

/-- The stand-alone run of a unit. -/
def Leaf.activity : Leaf → Activity
  | .checksum => .checksumming
  | .stuff => .stuffing
  | .unstuff => .unstuffing

/-- What the function of a unit gives, as the unit hands it over (R80, R90, R95). -/
def Leaf.result (u : Leaf) (x : List Byte) : UnitResult :=
  match u with
  | .checksum => .byte (Machine.checksum x)
  | .stuff => .bytes (Machine.stuff x)
  | .unstuff => (Machine.unstuff x).toUnit

theorem Leaf.activity_cases (u : Leaf) :
    u.activity = .checksumming ∨ u.activity = .stuffing ∨ u.activity = .unstuffing := by
  cases u <;> simp [Leaf.activity]

theorem State.beginUnit_active (u : Leaf) (pairs : Bool) (x : List Byte) (s : State) :
    (s.beginUnit u pairs x).active = u.activity := by cases u <;> rfl

theorem State.handOver_of_sameCaller {s t : State} (h : s.SameCaller t) (u : UnitResult) :
    t.handOver u = s.handOver u := by
  obtain ⟨hp, hq, hr⟩ := h
  simp [State.handOver, State.begin, State.toIdle, hp, hq, hr]

/-- The step that starts a unit on its own. -/
theorem step_unitSerial {s : State} {u : Leaf} {pairs : Bool} {x : List Byte} {q : List Command}
    (hr : s.resetReq = false) (ha : s.active = .idle) (hp : s.pending = .unitSerial u pairs x :: q) :
    step s = .next (({ s with pending := q } : State).beginUnit u pairs x) := by
  have hw : s.window = none := by simp [State.window, ha, hp]
  exact step_of_sequence hr hw (by simp [State.sequence, State.idleRow, ha, hp])

/-- The bytes of the operand that a unit on its own has still to take. -/
def State.leafLeft (s : State) : Nat := s.operand.length - s.cursor

theorem State.SameOperation.operand_eq {s t : State} (h : s.SameOperation t) : t.operand = s.operand := h.2.2.2.1

section
variable {s : State} {u : Leaf}

/-- With a byte left, a step takes one byte, or the Unstuffer an escape pair (R140, R141, R142). -/
theorem step_leaf_byte (hr : s.resetReq = false) (ha : s.active = u.activity) (hl : 0 < s.leafLeft) :
    ∃ t, step s = .next t ∧ s.SameOperation t ∧ (t.cursor = s.cursor + 1 ∨ u = .unstuff ∧ s.cursor < t.cursor) := by
  have hlt : s.cursor < s.operand.length := Nat.lt_of_sub_pos hl
  obtain ⟨t, hstep, hcase⟩ := step_cases s
  refine ⟨t, hstep, ?_⟩
  cases hcase with
  | checksum _ _ ht =>
    have hread : bufRead s.operand s.cursor = some s.operand[s.cursor] := List.getElem?_eq_getElem hlt
    simp only [State.checksumRow, hread] at ht
    subst ht
    exact ⟨⟨⟨rfl, rfl, rfl⟩, rfl, rfl, rfl, rfl, rfl⟩, .inl rfl⟩
  | stuff _ hs _ ht =>
    rw [State.txByte_stuffing hs] at ht
    subst ht
    exact ⟨⟨⟨rfl, rfl, rfl⟩, rfl, rfl, rfl, rfl, rfl⟩, .inl rfl⟩
  | unstuffByte _ hs b rest _ ht =>
    rw [State.rxBytes_unstuffing hs] at ht
    subst ht
    exact ⟨⟨⟨rfl, rfl, rfl⟩, rfl, rfl, rfl, rfl, rfl⟩, .inl rfl⟩
  | unstuffPair _ hs _ _ v rest _ ht =>
    rw [State.rxBytes_unstuffing hs] at ht
    subst ht
    refine ⟨⟨⟨rfl, rfl, rfl⟩, rfl, rfl, rfl, rfl, rfl⟩, .inr ⟨?_, by simp⟩⟩
    cases u <;> simp_all [Leaf.activity]
  | stuffEnd _ _ hc | unstuffEnd _ _ hc => omega
  | _ => cases u <;> simp_all [Leaf.activity]  -- a case of another unit

/-- With no byte left, a step hands over what the unit's function gives (R146). -/
theorem step_leaf_end (hr : s.resetReq = false) (ha : s.active = u.activity) (h : s.Inv) (hl : s.leafLeft = 0) :
    step s = .next (s.handOver (u.result s.operand)) := by
  have hc : s.operand.length ≤ s.cursor := Nat.sub_eq_zero_iff_le.1 hl
  obtain ⟨-, -, hph⟩ := (State.inv_leaf (by rw [ha]; exact u.activity_cases)).1 h
  cases u with
  | checksum =>
    have ha' : s.active = .checksumming := ha
    have hread : bufRead s.operand s.cursor = none := List.getElem?_eq_none hc
    simp only [ha', List.take_of_length_le hc] at hph
    refine step_of_sequence hr (by simp only [State.window, ha']) ?_
    simp only [State.sequence, ha', State.checksumRow, hread, hph]
    rfl
  | stuff =>
    have ha' : s.active = .stuffing := ha
    simp only [ha', List.take_of_length_le hc] at hph
    refine step_of_sequence hr (by simp [State.window, ha', hc]) ?_
    simp only [State.sequence, ha', hph]
    rfl
  | unstuff =>
    have ha' : s.active = .unstuffing := ha
    simp only [ha', List.take_of_length_le hc] at hph
    refine step_of_sequence hr (by simp [State.window, ha', hc]) ?_
    simp only [State.sequence, ha', Leaf.result, Machine.unstuff, hph]

/-- A unit takes a step for each byte left and one more for the end; the Unstuffer, which may take pairs whole, no more
than that. -/
theorem run_leaf (hr : s.resetReq = false) (ha : s.active = u.activity) (h : s.Inv) :
    ∃ k ≤ s.leafLeft + 1, (u ≠ .unstuff → k = s.leafLeft + 1) ∧
      Host.Core.run core k s = .next (s.handOver (u.result s.operand)) := by
  induction hn : s.leafLeft using Nat.strong_induction_on generalizing s with
  | h n ih =>
    rcases Nat.eq_zero_or_pos n with hz | hpos
    · exact ⟨1, by omega, fun _ => by omega, run_succ_of_step (step_leaf_end hr ha h (hn.trans hz)) 0⟩
    · obtain ⟨t, hstep, hsame, hcur⟩ := step_leaf_byte hr ha (by omega)
      obtain ⟨hless, hone⟩ : t.leafLeft < n ∧ (u ≠ .unstuff → t.leafLeft + 1 = n) := by
        unfold State.leafLeft at hn ⊢
        rw [hsame.operand_eq]
        refine ⟨by omega, fun hu => ?_⟩
        rw [hcur.resolve_right fun hpair => hu hpair.1]
        omega
      obtain ⟨k, hk, hexact, hrun⟩ := ih t.leafLeft hless (hsame.resetReq_eq.trans hr) (hsame.active_eq.trans ha)
        (everyStepKeepsTheInvariant s t h hstep) rfl
      rw [hsame.operand_eq, State.handOver_of_sameCaller hsame.1] at hrun
      exact ⟨k + 1, by omega, fun hu => by rw [hexact hu, hone hu], (run_succ_of_step hstep k).trans hrun⟩

end

/-- Settles O60: the step that starts the unit, and the run of the unit on its operand. -/
theorem leafMachinesComputeLeafFunctions : Obligations.LeafMachinesComputeLeafFunctions := by
  intro s pairs x q hr ha
  have run : ∀ u : Leaf, s.pending = .unitSerial u pairs x :: q →
      ∃ k ≤ x.length + 1, (u ≠ .unstuff → k = x.length + 1) ∧
        Host.Core.run core (k + 1) s = .next (({ s with pending := q } : State).handOver (u.result x)) := by
    intro u hp
    obtain ⟨k, hk, hexact, hrun⟩ := run_leaf (s := ({ s with pending := q } : State).beginUnit u pairs x) hr
      (State.beginUnit_active u pairs x _) (State.beginUnit_inv u pairs x _)
    exact ⟨k, hk, hexact, (run_succ_of_step (step_unitSerial hr ha hp) k).trans hrun⟩
  refine ⟨fun hp => ?_, fun hp => ?_, fun hp => ?_⟩
  · obtain ⟨k, -, hexact, hrun⟩ := run .checksum hp
    rwa [hexact (by decide)] at hrun
  · obtain ⟨k, -, hexact, hrun⟩ := run .stuff hp
    rwa [hexact (by decide)] at hrun
  · obtain ⟨k, hk, -, hrun⟩ := run .unstuff hp
    exact ⟨k + 1, Nat.succ_le_succ hk, hrun⟩

end Sys2Proof.Machine
end

section
/-! PROOFS. The block's exceptions (spec/60_exceptions.md): every step answers a next state, and ENCODE and DECODE end
in an outcome on every idle instance (R175); a whole operation asked of a busy instance is refused (R190). -/

namespace Sys2Proof.Machine

theorem State.deliver_idle_initial (s : State) (r : Result) :
    (s.deliver r).active = .idle ∧ (s.deliver r).workingInitial :=
  ⟨State.deliver_active s r, State.deliver_workingInitial r s⟩

/-- Settles O50: each case of a step has a next state, and both operations end in the delivery of what their function
gives. -/
theorem errorsAreOrdinaryOutcomes : Obligations.ErrorsAreOrdinaryOutcomes := by
  refine ⟨fun s => ?_, fun x s ha => ⟨?_, ?_⟩⟩
  · obtain ⟨t, hstep, -⟩ := step_cases s
    exact ⟨t, hstep⟩
  · exact ⟨encodeFrame s.pmax x, exec_encode_of_idle ha x, s.deliver_idle_initial _⟩
  · exact ⟨decodeFrame s.pmax x, exec_decode_of_idle ha x, s.deliver_idle_initial _⟩

/-- Settles O27: each of the six runs as one atomic step, which a busy instance refuses. -/
theorem busyInstanceRefusesOperations : Obligations.BusyInstanceRefusesOperations := by
  intro x s hbusy i hi
  simp only [List.mem_cons, List.not_mem_nil, or_false] at hi
  rcases hi with rfl | rfl | rfl | rfl | rfl | rfl
  all_goals exact State.atomic_of_busy hbusy

end Sys2Proof.Machine
end

section
/-! PROOFS. Reset in any state (spec/70_reset_and_hazards.md, R200): the step is `State.applyReset`. -/

namespace Sys2Proof.Machine

theorem State.applyReset_workingInitial (s : State) : s.applyReset.workingInitial :=
  ⟨s.applyReset_acc, s.applyReset_esc, s.applyReset_dstate, s.applyReset_tstate, s.applyReset_cursor,
    s.applyReset_mem, s.applyReset_pairs, s.applyReset_operand, s.applyReset_emitted⟩

/-- Reset goes before what the decoder is presented with. -/
theorem step_of_reset {s : State} (hr : s.resetReq = true) : step s = .next s.applyReset :=
  step_of_row (State.fetch_reset hr)

/-- Settles O53: the state after the step is `State.applyReset`, which keeps only the parameter and the caller's list. -/
theorem resetAbandonsTheOperation : Obligations.ResetAbandonsTheOperation := by
  intro s hr
  exact ⟨s.applyReset, step_of_reset hr, s.applyReset_workingInitial, s.applyReset_active, s.applyReset_outcome,
    s.applyReset_unitOut, s.applyReset_resetReq, s.applyReset_pmax, s.applyReset_pending⟩

end Sys2Proof.Machine
end
